-- ==== Sys2Proof/Word.lean ====
section
/-! DEFINITION. The word types of FPSR's spec: the 64-bit registers, the 32-bit instruction word, the byte
of program text and the single bit of a control field. -/

namespace Sys2Proof

/-- A 64-bit register value (R20, R41); bit 0 is the least significant (R6). -/
abbrev Word := BitVec 64

/-- One instruction word; every instruction is 32 bits (R70). -/
abbrev InstrWord := BitVec 32

/-- One byte of program text (R62). -/
abbrev Byte := BitVec 8

/-- A one-bit control field, as `HCR_EL2.E2H` (R40). -/
abbrev Bit := BitVec 1

end Sys2Proof
end

