-- ==== Sys2Proof/Syntax.lean ====
section
/-! DEFINITION. The two instructions of spec/opcode_table.json (R2, R81). -/

namespace Sys2Proof

/-- An instruction. The operand `t` is the number of `<Xt>`, 0 to 31 (R74); 31 is the zero register (R100). -/
inductive Instr where
  /-- `MRS <Xt>, FPSR` (R96). -/
  | mrsFpsr (t : Fin 32)
  /-- `MSR FPSR, <Xt>` (R97). -/
  | msrFpsr (t : Fin 32)
  deriving DecidableEq, Repr

end Sys2Proof
end

