-- ==== Sys2Proof/Decode.lean ====
section
/-! DEFINITION. The decoder (R76), total on any bytes and rejecting by name; after it the encoder, written from the
field layout of R71. -/

namespace Sys2Proof

/-- Why the decoder refuses. -/
inductive DecodeError where
  /-- Fewer than the four bytes of an instruction word (R70). -/
  | truncated
  /-- "not in the FPSR spec's opcode table" (R76). -/
  | notInOpcodeTable (w : InstrWord)
  deriving DecidableEq, Repr

/-- The mask of both rows of the opcode table (R75): all bits but Rt. -/
def rowMask : InstrWord := 0xFFFFFFE0#32

/-- The match value of the row MRS_FPSR (R75). -/
def mrsMatch : InstrWord := 0xD53B4420#32

/-- The match value of the row MSR_FPSR (R75). -/
def msrMatch : InstrWord := 0xD51B4420#32

/-- Rt, word bits [4:0], as the number of a register (R74). -/
def rtField (w : InstrWord) : Fin 32 := (w.extractLsb' 0 5).toFin

/-- Decoding of one word (R76). -/
def decodeWord (w : InstrWord) : Except DecodeError Instr :=
  if w &&& rowMask = mrsMatch then .ok (.mrsFpsr (rtField w))
  else if w &&& rowMask = msrMatch then .ok (.msrFpsr (rtField w))
  else .error (.notInOpcodeTable w)

/-- The instruction word of four bytes, the lowest address first: little-endian (R62). -/
def wordOfBytes (b0 b1 b2 b3 : Byte) : InstrWord := b3 ++ b2 ++ b1 ++ b0

/-- The four bytes of an instruction word, the lowest address first (R62). -/
def bytesOfWord (w : InstrWord) : List Byte :=
  [w.extractLsb' 0 8, w.extractLsb' 8 8, w.extractLsb' 16 8, w.extractLsb' 24 8]

/-- Decoding of the bytes at the program counter, with the bytes after the instruction. -/
def decodeBytes : List Byte → Except DecodeError (Instr × List Byte)
  | b0 :: b1 :: b2 :: b3 :: rest => (decodeWord (wordOfBytes b0 b1 b2 b3)).map fun i => (i, rest)
  | _ => .error .truncated

/-- A word of the system-register access format (R71): the fixed prefix, the direction bit L (R73), FPSR's selector
op0, op1, CRn, CRm, op2 (R72), and Rt. -/
def accessWord (l : BitVec 1) (t : Fin 32) : InstrWord :=
  0b1101010100#10 ++ l ++ 0b11#2 ++ 0b011#3 ++ 0b0100#4 ++ 0b0100#4 ++ 0b001#3 ++ BitVec.ofFin (w := 5) t

/-- The word of an instruction (R71, R73: L = 1 for MRS, 0 for MSR). -/
def encode : Instr → InstrWord
  | .mrsFpsr t => accessWord 1#1 t
  | .msrFpsr t => accessWord 0#1 t

/-- The instruction read from a word numbered as spec/opcode_table.json numbers it: its `nbits` bits, all above them 0,
laid out as bytes in the order of R62 and given to the decoder. -/
def decodeTableWord (nbits w : Nat) : Option Instr :=
  match decodeBytes (bytesOfWord (BitVec.ofNat 32 (w % 2 ^ nbits))) with
  | .ok (i, _) => some i
  | .error _ => none

/-- The assembler's name of register number `t` in the `<Xt>` position (R78). -/
def registerName (t : Fin 32) : String :=
  if t.val = 31 then "XZR" else "X" ++ toString t.val

/-- The assembler spelling of an instruction (R78), the destination first; `name` is the system register's name, `FPSR` or
the generic `S3_3_C4_C4_1` (R80). -/
def Instr.spelling (name : String) : Instr → String
  | .mrsFpsr t => "MRS " ++ registerName t ++ ", " ++ name
  | .msrFpsr t => "MSR " ++ name ++ ", " ++ registerName t

/-- The instructions of the opcode table, every row at every Rt (R77). -/
def Instr.all : List Instr :=
  (List.finRange 32).map .mrsFpsr ++ (List.finRange 32).map .msrFpsr

/-- The instruction an assembler line stands for, under either name of the register (R78, R80). -/
def transcribe (line : String) : Option Instr :=
  Instr.all.find? fun i => line == i.spelling "FPSR" || line == i.spelling "S3_3_C4_C4_1"

end Sys2Proof
end

