-- ==== Sys2Proof/Config.lean ====
section
/-! DEFINITION. What an implementation fixes (R5) and the model's free values. The parameters and the draws are
opaque constants: no proof can see their values, so what is proved holds for all of them. -/

namespace Sys2Proof

/-- The implementation parameters of R5. -/
structure Config.Params where
  /-- `HAVE_AARCH32_FP`: FPSR.{N,Z,C,V} are real fields; otherwise bits [31:28] are RES0 (D21). -/
  haveAArch32Fp : Bool
  /-- `HAVE_EL3`: the value of `HaveEL(EL3)`. -/
  haveEl3 : Bool
  /-- `EL3_TRAP_PRIORITY_WHEN_SDD`: the IMPLEMENTATION_DEFINED Boolean of the access listing (D22). -/
  el3TrapPriorityWhenSdd : Bool
  /-- `RES0_WRITABLE_MASK`: which RES0 bits are storage (D2). Bits of it at named fields mean nothing (R36). -/
  res0WritableMask : Word
  /-- `FP_TRAPS_IMPLEMENTED`: a floating-point exception whose FPCR enable is 1 is trapped (D13). -/
  fpTrapsImplemented : Bool
  deriving DecidableEq, Repr, Inhabited

/-- DESIGN CHOICE (log entry 1; safe): this implementation's parameters, left open as R5 leaves them. -/
opaque Config.params : Config.Params

/-- DESIGN CHOICE (log entry 2; safe for claims about one run): `draw(64)` of R98. The argument is the number of draws
taken before, so that each read has a value of its own. -/
opaque Config.draw : Nat → Word

/-- DESIGN CHOICE (log entry 4; unsafe): `RESET_PC`, the address a run starts at. The spec leaves it open (R44, D5). -/
def Config.resetPc : Word := 0#64

end Sys2Proof
end

