-- ==== Sys2Proof/Machine/Context.lean ====
section
/-! DEFINITION. The context record of R40: what the surrounding machine holds and the rules of FPSR only read. -/

namespace Sys2Proof.Machine

/-- The Exception levels, the values of `PSTATE.EL` (R151). -/
inductive EL where
  | el0 | el1 | el2 | el3
  deriving DecidableEq, Repr

/-- The context record `ctx`, one field per row of R40's table. -/
structure Ctx where
  /-- `PSTATE.EL`. -/
  el : EL
  /-- `Halted()`. -/
  halted : Bool
  /-- `EDSCR.SDD`. -/
  sdd : Bit
  /-- `ELUsingAArch32(EL1)`. -/
  el1AArch32 : Bool
  /-- `ELUsingAArch32(EL2)`. -/
  el2AArch32 : Bool
  /-- `ELUsingAArch32(EL3)`. -/
  el3AArch32 : Bool
  /-- `EL2Enabled()`. -/
  el2Enabled : Bool
  /-- `HCR_EL2.E2H`. -/
  e2h : Bit
  /-- `HCR_EL2.TGE`. -/
  tge : Bit
  /-- `CPACR_EL1.FPEN`. -/
  cpacrFpen : BitVec 2
  /-- `CPTR_EL2.FPEN`. -/
  cptrEl2Fpen : BitVec 2
  /-- `CPTR_EL2.TFP`. -/
  cptrEl2Tfp : Bit
  /-- `CPTR_EL3.TFP`. -/
  cptrEl3Tfp : Bit
  /-- `FPCR.IDE`. -/
  fpcrIde : Bit
  /-- `FPCR.IXE`. -/
  fpcrIxe : Bit
  /-- `FPCR.UFE`. -/
  fpcrUfe : Bit
  /-- `FPCR.OFE`. -/
  fpcrOfe : Bit
  /-- `FPCR.DZE`. -/
  fpcrDze : Bit
  /-- `FPCR.IOE`. -/
  fpcrIoe : Bit
  deriving DecidableEq, Repr

/-- An FPCR enable bit as the implementation holds it: 0 where floating-point traps are not implemented (R122;
PRESUMED, the spec's GK12; log entry 13). -/
def heldEnable (p : Config.Params) (b : Bit) : Bit :=
  if p.fpTrapsImplemented then b else 0#1

/-- The context the machine sees when the surrounding machine offers `c`: R122's constraint on the six enables, and
nothing else changed (R40: no combination is pruned). -/
def Ctx.held (p : Config.Params) (c : Ctx) : Ctx :=
  { c with
    fpcrIde := heldEnable p c.fpcrIde
    fpcrIxe := heldEnable p c.fpcrIxe
    fpcrUfe := heldEnable p c.fpcrUfe
    fpcrOfe := heldEnable p c.fpcrOfe
    fpcrDze := heldEnable p c.fpcrDze
    fpcrIoe := heldEnable p c.fpcrIoe }

end Sys2Proof.Machine
end

