-- ==== Sys2Proof/Machine/Inputs.lean ====
section
/-! DEFINITION. The inputs of a step: the floating-point exceptions, the update events of R120, and what the
surrounding machine can deliver with the context of a step. -/

namespace Sys2Proof.Machine

/-- The six floating-point exceptions (R123). -/
inductive FpExc where
  | invalidOp | divByZero | overflow | underflow | inexact | inputDenormal
  deriving DecidableEq, Repr

/-- R123's table has these six rows. -/
def FpExc.all : List FpExc :=
  [.invalidOp, .divByZero, .overflow, .underflow, .inexact, .inputDenormal]

/-- The position of the cumulative bit of an exception in FPSR (R123). -/
def FpExc.bit : FpExc → Nat
  | .invalidOp => 0
  | .divByZero => 1
  | .overflow => 2
  | .underflow => 3
  | .inexact => 4
  | .inputDenormal => 7

/-- The trap enable of an exception (R123). -/
def FpExc.enable (c : Ctx) : FpExc → Bit
  | .invalidOp => c.fpcrIoe
  | .divByZero => c.fpcrDze
  | .overflow => c.fpcrOfe
  | .underflow => c.fpcrUfe
  | .inexact => c.fpcrIxe
  | .inputDenormal => c.fpcrIde

/-- A set of floating-point exceptions, the operand `E` of `FPExc(E)` (R120). -/
structure ExcSet where
  invalidOp : Bool := false
  divByZero : Bool := false
  overflow : Bool := false
  underflow : Bool := false
  inexact : Bool := false
  inputDenormal : Bool := false
  deriving DecidableEq, Repr

/-- Whether the set holds an exception. -/
def ExcSet.has (E : ExcSet) : FpExc → Bool
  | .invalidOp => E.invalidOp
  | .divByZero => E.divByZero
  | .overflow => E.overflow
  | .underflow => E.underflow
  | .inexact => E.inexact
  | .inputDenormal => E.inputDenormal

/-- Some exception of the set has its enable set: R122's condition, the negation of R121's. -/
def ExcSet.anyEnabled (c : Ctx) (E : ExcSet) : Bool :=
  FpExc.all.any fun e => E.has e && FpExc.enable c e == 1#1

/-- The update events of R120. -/
inductive Event where
  /-- `FPExc(E)`: the floating-point exceptions in `E` occurred during one instruction (its union over the elements of a
  vector, R129). -/
  | fpExc (E : ExcSet)
  /-- `Sat`: an Advanced SIMD integer operation saturated (R124). -/
  | sat
  /-- `A32Cmp(n,z,c,v)`: an AArch32 floating-point comparison produced these flags (R125). -/
  | a32Cmp (n z c v : Bit)
  deriving DecidableEq, Repr

/-- What one step is. -/
inductive Action where
  /-- The instruction at the pc is executed. -/
  | run
  /-- An update event of R120 happens. -/
  | update (e : Event)
  /-- An AArch64 floating-point comparison sets PSTATE.{N,Z,C,V} (R43, R126; log entry 20). -/
  | a64Cmp (n z c v : Bit)
  /-- The reset event (R162). -/
  | reset
  deriving DecidableEq, Repr

/-- One input: the context record of one step (R40) and what that step is. -/
structure Input where
  ctx : Ctx
  action : Action
  deriving DecidableEq, Repr

end Sys2Proof.Machine
end

