-- ==== Sys2Proof/Machine/State.lean ====
section
/-! DEFINITION. The state of the machine, its reset value, and the reasons a step stops. -/

namespace Sys2Proof.Machine

/-- FPSR as R39 carries it. -/
structure Fpsr where
  /-- The stored bits. -/
  val : Word
  /-- The bits of `val` that some rule determined; the others are UNKNOWN and read as draws (R98). -/
  known : Word
  deriving DecidableEq, Repr

/-- Why the machine stops with a fault. All are terminal and leave no next state (R147, R148). -/
inductive Fault where
  /-- Raised by MRS and MSR of FPSR when the access check denies: `AArch64.SystemAccessTrap(target, ec)` (R10, R140). What it
  does further is in no source (R147). Safe. -/
  | trap (target : EL) (ec : Nat)
  /-- Raised by MRS and MSR of FPSR: the statement `UNDEFINED` (R144, R148). Safe. -/
  | undefined
  /-- Raised by the fetch: no program text stands at this address (R68, log entry 7). Safe. -/
  | noProgramText (address : Nat)
  deriving DecidableEq, Repr

/-- Why the machine gives a step no meaning. -/
inductive Refusal where
  /-- Raised by exec's arm of an instruction that has no meaning yet; no arm raises it. Safe. -/
  | notModelled (mnemonic : String)
  /-- Raised by the step when the decoder refuses the fetched word (R76). Safe. -/
  | notDecoded (e : DecodeError)
  /-- Raised by the fetch at a pc that is not a multiple of 4 (R42, R63). Safe. -/
  | misalignedFetch (pc : Word)
  /-- Raised by the fetch where pc + 4 would exceed 2^64 - 1 (R42). Safe. -/
  | fetchPastTop (pc : Word)
  /-- Raised by the event `FPExc(E)` when an exception of `E` has its enable set (R122, R153). Safe. -/
  | trappedFPException (E : ExcSet)
  /-- Raised for an input that is no event of the spec: `FPExc` of the empty set (R120), `A32Cmp` without AArch32
  floating-point (R125). That such an input is refused is a DESIGN CHOICE (log entry 14). Safe. -/
  | noSuchEvent (e : Event)
  deriving DecidableEq, Repr

/-- The state. R46 says what is not state; the last three fields are inputs of a run that the host's step can find
nowhere else (log entries 2, 6, 7). -/
structure State where
  /-- FPSR (R20, R39). -/
  fpsr : Fpsr
  /-- x[0] to x[30] (R41). -/
  x : Vector Word 31
  /-- The address of the instruction being executed (R42). -/
  pc : Word
  /-- The context record of this step (R40). -/
  ctx : Ctx
  /-- PSTATE.{N,Z,C,V}, N the highest bit: not part of FPSR (R43). -/
  pstateNzcv : BitVec 4
  /-- The program text as bytes, addresses strictly rising (R62, R68). -/
  text : List Host.Cell
  /-- What the surrounding machine will deliver, one a step (R40, R120). -/
  inputs : List Input
  /-- How many draws have been taken (R98). -/
  draws : Nat
  deriving DecidableEq, Repr

/-- The context of a step right after reset. The spec gives none (R44, R162, N16): `el` is PRESUMED (the family comes out
of reset at its highest level) and every other field is a DESIGN CHOICE of 0 (log entry 5; unsafe). -/
def Ctx.atReset : Ctx where
  el := .el3
  halted := false
  sdd := 0#1
  el1AArch32 := false
  el2AArch32 := false
  el3AArch32 := false
  el2Enabled := false
  e2h := 0#1
  tge := 0#1
  cpacrFpen := 0#2
  cptrEl2Fpen := 0#2
  cptrEl2Tfp := 0#1
  cptrEl3Tfp := 0#1
  fpcrIde := 0#1
  fpcrIxe := 0#1
  fpcrUfe := 0#1
  fpcrOfe := 0#1
  fpcrDze := 0#1
  fpcrIoe := 0#1

/-- The machine right after reset. FPSR is R160's; the x registers (log entry 3), the pc (log entry 4), the context (log
entry 5), the inputs (log entry 6) and PSTATE's flags (log entry 20) are DESIGN CHOICEs, unsafe as the log says. No
program text is part of the machine (log entry 7). -/
def State.reset : State where
  fpsr := { val := 0#64, known := 0#64 }
  x := Vector.replicate 31 0#64
  pc := Config.resetPc
  ctx := Ctx.atReset
  pstateNzcv := 0#4
  text := []
  inputs := []
  draws := 0

end Sys2Proof.Machine
end

