-- ==== Sys2Proof/Machine/Flags.lean ====
section
/-! DEFINITION. FPSR's named fields, masks and bit updates. -/

namespace Sys2Proof.Machine

/-- The eleven named fields of FPSR (R21, R38). -/
inductive NamedField where
  | n | z | c | v | qc | idc | ixc | ufc | ofc | dzc | ioc
  deriving DecidableEq, Repr

/-- The bit a named field stands at (R21). -/
def NamedField.bit : NamedField → Nat
  | .n => 31
  | .z => 30
  | .c => 29
  | .v => 28
  | .qc => 27
  | .idc => 7
  | .ixc => 4
  | .ufc => 3
  | .ofc => 2
  | .dzc => 1
  | .ioc => 0

/-- The seven bits that hardware only ever sets (R127): QC and the six cumulative exception bits. -/
def NamedField.cumulative : NamedField → Bool
  | .n | .z | .c | .v => false
  | .qc | .idc | .ixc | .ufc | .ofc | .dzc | .ioc => true

/-- Whether the field exists in an implementation: N, Z, C and V only with AArch32 floating-point (R23 to R26). -/
def NamedField.present (p : Config.Params) (f : NamedField) : Bool :=
  f.cumulative || p.haveAArch32Fp

/-- `NZCV_MASK` (R36). -/
def nzcvMask : Word := 0x00000000F0000000#64

/-- `QC_MASK` (R36). -/
def qcMask : Word := 0x0000000008000000#64

/-- `CUM_MASK` (R36). -/
def cumMask : Word := 0x000000000000009F#64

/-- `FIELD_MASK` (R36). -/
def fieldMask (p : Config.Params) : Word :=
  qcMask ||| cumMask ||| (if p.haveAArch32Fp then nzcvMask else 0#64)

/-- `RES0_MASK` (R36). -/
def res0Mask (p : Config.Params) : Word := ~~~ fieldMask p

/-- `IMPL_MASK` (R36): the bits that are storage in this implementation. -/
def implMask (p : Config.Params) : Word := fieldMask p ||| (p.res0WritableMask &&& res0Mask p)

/-- `SetBit(b)` of 41_implicit_updates.md: the bit becomes a known 1. -/
def Fpsr.setBit (b : Nat) (f : Fpsr) : Fpsr where
  val := f.val ||| 1#64 <<< b
  known := f.known ||| 1#64 <<< b

/-- `for e in E: SetBit(bit(e))` (R121). -/
def Fpsr.setExceptions (E : ExcSet) (f : Fpsr) : Fpsr :=
  FpExc.all.foldl (fun g e => if E.has e then g.setBit e.bit else g) f

/-- QC becomes 1 (R124). -/
def Fpsr.setQc (f : Fpsr) : Fpsr := f.setBit NamedField.qc.bit

/-- N, Z, C and V are overwritten with the flags of a comparison (R125). -/
def Fpsr.setNzcv (nzcv : BitVec 4) (f : Fpsr) : Fpsr where
  val := (f.val &&& ~~~ nzcvMask) ||| nzcv.setWidth 64 <<< 28
  known := f.known ||| nzcvMask

/-- `ReadFPSR()` with the draw `d` (R98). -/
def Fpsr.observe (p : Config.Params) (d : Word) (f : Fpsr) : Word :=
  ((f.val &&& f.known) ||| (d &&& ~~~ f.known)) &&& implMask p

/-- `WriteFPSR(v)` (R99): every bit is known afterwards. -/
def Fpsr.written (p : Config.Params) (v : Word) : Fpsr where
  val := v &&& implMask p
  known := BitVec.allOnes 64

/-- `FPSCR_read_mapped()` (R130) with the draw `d`: the named fields as `ReadFPSR()` gives them, at the same positions
(PRESUMED, the spec's GK6; log entry 19). -/
def Fpsr.fpscrRead (p : Config.Params) (d : Word) (f : Fpsr) : Word :=
  f.observe p d &&& fieldMask p

/-- `FPSCR_write_mapped(v)` (R130): writes the named fields from `v` and leaves every other bit. -/
def Fpsr.fpscrWrite (p : Config.Params) (v : Word) (f : Fpsr) : Fpsr where
  val := (f.val &&& ~~~ fieldMask p) ||| (v &&& fieldMask p)
  known := f.known ||| fieldMask p

/-- FPSR after reset: every storage bit is unknown (R160, R161). -/
def Fpsr.afterReset : Fpsr where
  val := 0#64
  known := 0#64

end Sys2Proof.Machine
end

