-- ==== Sys2Proof/Machine/Operands.lean ====
section
/-! DEFINITION. The one operand form, the general register `<Xt>`. -/

namespace Sys2Proof.Machine

/-- `x[t]`: number 31 is the zero register and reads as 0 (R41, R100). -/
def State.readX (s : State) (t : Fin 32) : Word :=
  if h : t.val < 31 then s.x[t.val] else 0#64

/-- `x[t] <- v`: number 31 is the zero register and discards the value (R41, R100). -/
def State.writeX (s : State) (t : Fin 32) (v : Word) : State :=
  if h : t.val < 31 then { s with x := s.x.set t.val v } else s

end Sys2Proof.Machine
end

