-- ==== Sys2Proof/Machine/Ops.lean ====
section
/-! DEFINITION. The named operations: updates of the state, the program text, taking an exception, reset, and the inputs. -/

namespace Sys2Proof.Machine

/-- FPSR replaced. -/
def State.setFpsr (s : State) (f : Fpsr) : State := { s with fpsr := f }

/-- PSTATE.{N,Z,C,V} replaced (R43). -/
def State.setPstate (s : State) (nzcv : BitVec 4) : State := { s with pstateNzcv := nzcv }

/-- `pc <- pc + 4` of an instruction that completes (R42). -/
def State.advancePc (s : State) : State := { s with pc := s.pc + 4#64 }

/-- The next fresh draw of 64 bits (R98; log entry 2). -/
def State.freshDraw (s : State) : Word := Config.draw s.draws

/-- The draw is taken: the next one is another. -/
def State.takeDraw (s : State) : State := { s with draws := s.draws + 1 }

/-- `ReadFPSR()` (R98). -/
def State.readFpsr (s : State) : Word := s.fpsr.observe Config.params s.freshDraw

/-- `WriteFPSR(v)` (R99). -/
def State.writeFpsr (s : State) (v : Word) : State := s.setFpsr (Fpsr.written Config.params v)

/-- `FPSCR_read_mapped()` (R130): the value, by the same draw `ReadFPSR()` would take. No instruction reaches it. -/
def State.fpscrReadMapped (s : State) : Word := s.fpsr.fpscrRead Config.params s.freshDraw

/-- `FPSCR_write_mapped(v)` (R130). No instruction reaches it. -/
def State.fpscrWriteMapped (s : State) (v : Word) : State := s.setFpsr (s.fpsr.fpscrWrite Config.params v)

/-- `raise Trap(target, ec)` (R9, R10): the shared operation of taking an exception. What
`AArch64.SystemAccessTrap` saves and where control goes is in no source, so the outcome is terminal and no state is
written (R147). There is no return from it (R148). -/
def takeTrap (target : EL) (ec : Nat) : Host.Outcome State Fault Refusal := .fault (.trap target ec)

/-- `raise Undefined` (R9, R10, R144): terminal, and distinct from every trap (R143). -/
def takeUndefined : Host.Outcome State Fault Refusal := .fault .undefined

/-- The reset event (R162): FPSR becomes unknown (R160, R161), and the x registers, the pc and PSTATE's flags hold what
`State.reset` holds (DESIGN CHOICE, log entry 18; unsafe). The context is an input; the text stays; draws stay fresh. -/
def State.resetEvent (s : State) : State :=
  { s with
    fpsr := Fpsr.afterReset
    x := State.reset.x
    pc := State.reset.pc
    pstateNzcv := State.reset.pstateNzcv }

/-- The state in which the next step acts: the next input's context is the context (R40), held to R122's constraint.
With no input left the context stays as it is. -/
def State.takeInput (s : State) : State :=
  match s.inputs with
  | [] => s
  | i :: rest => { s with ctx := i.ctx.held Config.params, inputs := rest }

/-- What the next step is: the next input's action, and with no input left an instruction. -/
def State.nextAction (s : State) : Action :=
  match s.inputs with
  | [] => .run
  | i :: _ => i.action

/-- The byte of program text at an address; none where no text stands (log entry 7). -/
def readByte : List Host.Cell → Nat → Option Byte
  | [], _ => none
  | (k, b) :: m, a => if k = a then some b else readByte m a

/-- The text with the byte at an address set, addresses kept strictly rising. -/
def writeByte (a : Nat) (b : Byte) : List Host.Cell → List Host.Cell
  | [] => [(a, b)]
  | (k, c) :: m =>
    if a < k then (a, b) :: (k, c) :: m
    else if a = k then (a, b) :: m
    else (k, c) :: writeByte a b m

/-- The text with several bytes set, the first at address `a`. -/
def writeBytes (a : Nat) : List Byte → List Host.Cell → List Host.Cell
  | [], m => m
  | b :: bs, m => writeBytes (a + 1) bs (writeByte a b m)

/-- The addresses are above `lo`, strictly rising, and below 2^64. -/
def risingFrom : Nat → List Host.Cell → Bool
  | _, [] => true
  | lo, (k, _) :: m => decide (lo ≤ k) && decide (k < 2 ^ 64) && risingFrom (k + 1) m

/-- The canonical form of the program text: addresses strictly rising, each an address of the machine. An unlisted address
has no value, so no entry can equal it. -/
def Memory.wf (m : List Host.Cell) : Bool := risingFrom 0 m

end Sys2Proof.Machine
end

