-- ==== Sys2Proof/Machine/AccessCheck.lean ====
section
/-! DEFINITION. The access check common to both instructions (R90 to R95), arm by arm as the listing of R103. -/

namespace Sys2Proof.Machine

/-- What the access check returns (R90). -/
inductive Access where
  | allow
  | trap (target : EL) (ec : Nat)
  | undefined
  deriving DecidableEq, Repr

/-- The pattern `F == 'x0'` on a 2-bit field: bit 0 is clear (R7). -/
def isX0 (f : BitVec 2) : Bool := !f.getLsbD 0

/-- `Pre(ctx)` (R95). -/
def preUndefined (p : Config.Params) (c : Ctx) : Bool :=
  c.halted && p.haveEl3 && c.sdd == 1#1 && p.el3TrapPriorityWhenSdd && !c.el3AArch32 && c.cptrEl3Tfp == 1#1

/-- The EL3 control denies: `HaveEL(EL3) && !ELUsingAArch32(EL3) && CPTR_EL3.TFP == '1'` (R91 to R93). -/
def el3Denies (p : Config.Params) (c : Ctx) : Bool :=
  p.haveEl3 && !c.el3AArch32 && c.cptrEl3Tfp == 1#1

/-- The outcome of a denial by the EL3 control below EL3 (R91 step 6, R92 step 5, R93 step 4). -/
def el3Denial (c : Ctx) : Access :=
  if c.halted && c.sdd == 1#1 then .undefined else .trap .el3 0x07

/-- The access check at EL0 (R91). -/
def accessEl0 (p : Config.Params) (c : Ctx) : Access :=
  if preUndefined p c then .undefined
  else if !c.el1AArch32 && !(c.el2Enabled && c.e2h == 1#1 && c.tge == 1#1) && c.cpacrFpen != 0b11#2 then
    if c.el2Enabled && !c.el2AArch32 && c.tge == 1#1 then .trap .el2 0x00
    else .trap .el1 0x07
  else if c.el2Enabled && !c.el2AArch32 && c.e2h == 1#1 && c.tge == 1#1 && c.cptrEl2Fpen != 0b11#2 then .trap .el2 0x07
  else if c.el2Enabled && !c.el2AArch32 && c.e2h == 1#1 && isX0 c.cptrEl2Fpen then .trap .el2 0x07
  else if c.el2Enabled && !c.el2AArch32 && c.e2h != 1#1 && c.cptrEl2Tfp == 1#1 then .trap .el2 0x07
  else if el3Denies p c then el3Denial c
  else .allow

/-- The access check at EL1 (R92). -/
def accessEl1 (p : Config.Params) (c : Ctx) : Access :=
  if preUndefined p c then .undefined
  else if isX0 c.cpacrFpen then .trap .el1 0x07
  else if c.el2Enabled && !c.el2AArch32 && c.e2h != 1#1 && c.cptrEl2Tfp == 1#1 then .trap .el2 0x07
  else if c.el2Enabled && !c.el2AArch32 && c.e2h == 1#1 && isX0 c.cptrEl2Fpen then .trap .el2 0x07
  else if el3Denies p c then el3Denial c
  else .allow

/-- The access check at EL2 (R93). -/
def accessEl2 (p : Config.Params) (c : Ctx) : Access :=
  if preUndefined p c then .undefined
  else if c.e2h == 0#1 && c.cptrEl2Tfp == 1#1 then .trap .el2 0x07
  else if c.e2h == 1#1 && isX0 c.cptrEl2Fpen then .trap .el2 0x07
  else if el3Denies p c then el3Denial c
  else .allow

/-- The access check at EL3 (R94): one control and no debug clause (C6). -/
def accessEl3 (c : Ctx) : Access :=
  if c.cptrEl3Tfp == 1#1 then .trap .el3 0x07 else .allow

/-- `AccessCheck(ctx)` (R90): the arm of the current Exception level. -/
def accessCheck (p : Config.Params) (c : Ctx) : Access :=
  match c.el with
  | .el0 => accessEl0 p c
  | .el1 => accessEl1 p c
  | .el2 => accessEl2 p c
  | .el3 => accessEl3 c

/-- A direct access to FPSR (R96, R97): the check is decided before anything is read or written; where it allows, the
access has its effect, and where it does not, nothing is written. -/
def guardedAccess (effect : State → State) (s : State) : Host.Outcome State Fault Refusal :=
  match accessCheck Config.params s.ctx with
  | .allow => .next (effect s)
  | .trap target ec => takeTrap target ec
  | .undefined => takeUndefined

end Sys2Proof.Machine
end

