-- ==== Sys2Proof/Machine/SysReg.lean ====
section
/-! DEFINITION. The two instructions (R96, R97). -/

namespace Sys2Proof.Machine

/-- The effect of a permitted `MRS <Xt>, FPSR`: `x[t] <- ReadFPSR(); pc <- pc + 4` (R96). FPSR stays as it is (R65). -/
def mrsEffect (t : Fin 32) (s : State) : State :=
  (s.takeDraw.writeX t s.readFpsr).advancePc

/-- The effect of a permitted `MSR FPSR, <Xt>`: `WriteFPSR(x[t]); pc <- pc + 4` (R97). -/
def msrEffect (t : Fin 32) (s : State) : State :=
  (s.writeFpsr (s.readX t)).advancePc

/-- `MRS <Xt>, FPSR` (R96). -/
def execMrsFpsr (t : Fin 32) (s : State) : Host.Outcome State Fault Refusal := guardedAccess (mrsEffect t) s

/-- `MSR FPSR, <Xt>` (R97). -/
def execMsrFpsr (t : Fin 32) (s : State) : Host.Outcome State Fault Refusal := guardedAccess (msrEffect t) s

end Sys2Proof.Machine
end

