-- ==== Sys2Proof/WellFormed.lean ====
section
/-! DEFINITION. The checks on instructions and on update events. -/

namespace Sys2Proof

/-- Every instruction is well formed: R77 reserves no operand value, and the bound of `t` (R74) is in its type. -/
def Instr.wellFormed : Instr → Bool
  | .mrsFpsr _ => true
  | .msrFpsr _ => true

/-- The events the spec has: `FPExc` of a non-empty set (R120), `Sat`, and `A32Cmp` only where AArch32 floating-point
is implemented (R125). -/
def Machine.Event.wellFormed (p : Config.Params) : Machine.Event → Bool
  | .fpExc E => Machine.FpExc.all.any E.has
  | .sat => true
  | .a32Cmp _ _ _ _ => p.haveAArch32Fp

end Sys2Proof
end

