-- ==== Sys2Proof/Machine/Events.lean ====
section
/-! DEFINITION. The side-effect updates by instructions this spec does not list (41_implicit_updates.md). No access check
is attached to them (R131), and the pc and the x registers are not their business (R121): they leave both, and the pc's
advance by the instruction that raised the event is not in the model (log entry 14). -/

namespace Sys2Proof.Machine

/-- The flags N, Z, C, V as one value, N the highest bit. -/
def nzcvOf (n z c v : Bit) : BitVec 4 := n ++ z ++ c ++ v

/-- The event `FPExc(E)`: R121 with every enable of `E` clear, R122 with some enable set. -/
def fpExcEvent (E : ExcSet) (s : State) : Host.Outcome State Fault Refusal :=
  if E.anyEnabled s.ctx then .refused (.trappedFPException E)
  else .next (s.setFpsr (s.fpsr.setExceptions E))

/-- The event `Sat` (R124): no control gates QC. -/
def satEvent (s : State) : State := s.setFpsr s.fpsr.setQc

/-- The event `A32Cmp(n,z,c,v)` (R125). -/
def a32CmpEvent (n z c v : Bit) (s : State) : State := s.setFpsr (s.fpsr.setNzcv (nzcvOf n z c v))

/-- An AArch64 floating-point comparison: PSTATE's flags, and not FPSR's (R43, R126). That it leaves the pc is a DESIGN
CHOICE (log entry 20). -/
def a64CmpEffect (n z c v : Bit) (s : State) : State := s.setPstate (nzcvOf n z c v)

/-- An update event in an implementation with parameters `p`: the spec has no such event where
`Event.wellFormed` fails (R120, R125), and refusing it by name there is a DESIGN CHOICE (log entry 14). -/
def applyEvent (p : Config.Params) (e : Event) (s : State) : Host.Outcome State Fault Refusal :=
  if e.wellFormed p then
    match e with
    | .fpExc E => fpExcEvent E s
    | .sat => .next (satEvent s)
    | .a32Cmp n z c v => .next (a32CmpEvent n z c v s)
  else .refused (.noSuchEvent e)

end Sys2Proof.Machine
end

