-- ==== Sys2Proof/Machine/Fetch.lean ====
section
/-! DEFINITION. Fetching an instruction's bytes, and placing them (log entries 7, 8). -/

namespace Sys2Proof.Machine

/-- What a fetch gives. -/
inductive Fetched where
  | bytes (bs : List Byte)
  | noText (address : Nat)
  | misaligned
  | pastTop
  deriving DecidableEq, Repr

/-- The `n` bytes of text from address `a` on. -/
def readBytes (text : List Host.Cell) (a : Nat) : Nat → Fetched
  | 0 => .bytes []
  | n + 1 =>
    match readByte text a with
    | none => .noText a
    | some b =>
      match readBytes text (a + 1) n with
      | .bytes bs => .bytes (b :: bs)
      | stop => stop

/-- The pc may be fetched from: a multiple of 4 (R63) whose pc + 4 does not exceed 2^64 - 1 (R42). -/
def fetchable (pc : Word) : Bool := pc.toNat % 4 == 0 && decide (pc.toNat + 4 ≤ 2 ^ 64 - 1)

/-- The fetch of the instruction at `pc` (R42, R62, R63). -/
def fetch (text : List Host.Cell) (pc : Word) : Fetched :=
  if pc.toNat % 4 = 0 then
    if pc.toNat + 4 ≤ 2 ^ 64 - 1 then readBytes text pc.toNat 4 else .pastTop
  else .misaligned

/-- The pc from which a placed word is fetched: the pc, or RESET_PC where the pc cannot be fetched from. -/
def placePc (pc : Word) : Word := if fetchable pc then pc else Config.resetPc

/-- The inputs with which the next step runs an instruction: as they are where it does already, else one more in front
that leaves the context as it is. -/
def runNext (s : State) : List Input :=
  match s.nextAction with
  | .run => s.inputs
  | _ => { ctx := s.ctx, action := .run } :: s.inputs

/-- The instruction word `w` of `nbits` bits placed where the next step fetches. -/
def placeWord (s : State) (nbits w : Nat) : State :=
  { s with
    pc := placePc s.pc
    inputs := runNext s
    text := writeBytes (placePc s.pc).toNat (bytesOfWord (BitVec.ofNat 32 (w % 2 ^ nbits))) s.text }

end Sys2Proof.Machine
end

