-- ==== Sys2Proof/Machine/Step.lean ====
section
/-! DEFINITION. One step of the machine. -/

namespace Sys2Proof.Machine

/-- The instruction at the pc, fetched, decoded and executed. DESIGN CHOICE (log entry 27; unsafe): it is supplied so in Debug
state too; R144 says only that a debugger issues it there, and R154 that this is not otherwise described. -/
def runInstr (s : State) : Host.Outcome State Fault Refusal :=
  match fetch s.text s.pc with
  | .bytes bs =>
    match decodeBytes bs with
    | .ok (i, _) => exec i s
    | .error e => .refused (.notDecoded e)
  | .noText a => .fault (.noProgramText a)
  | .misaligned => .refused (.misalignedFetch s.pc)
  | .pastTop => .refused (.fetchPastTop s.pc)

/-- One step: the next input gives the context (R40) and says whether an instruction runs, an event happens (R120), an
AArch64 comparison writes PSTATE (R43) or a reset comes (R162). Each is one atomic step in program order (R66). -/
def step (s : State) : Host.Outcome State Fault Refusal :=
  match s.nextAction with
  | .run => runInstr s.takeInput
  | .update e => applyEvent Config.params e s.takeInput
  | .a64Cmp n z c v => .next (a64CmpEffect n z c v s.takeInput)
  | .reset => .next s.takeInput.resetEvent

/-- `s` with an instruction of `nbits` bits placed so that the next step runs exactly it (log entry 7; in Debug state log entry 27). -/
def State.withFetchWord (s : State) (nbits w : Nat) : State := placeWord s nbits w

end Sys2Proof.Machine
end

