-- ==== Sys2Proof/Safety.lean ====
section
/-! DEFINITION. What claims are stated in: the launch premises of 92_eei_decisions.md, R151's conditions of access, the
invariant of the machine, and runs. -/

namespace Sys2Proof.Machine

/-- EL2's control lets an access from EL0 or EL1 past (R151): it counts only when EL2 is enabled and uses AArch64; with E2H
it is FPEN that decides, `strict` asking for '11' and otherwise for bit 0; without E2H it is TFP. -/
def el2Lets (c : Ctx) (strict : Bool) : Prop :=
  c.el2Enabled = true → c.el2AArch32 = false →
    (c.e2h = 1#1 → if strict then c.cptrEl2Fpen = 0b11#2 else c.cptrEl2Fpen.getLsbD 0 = true) ∧
    (c.e2h = 0#1 → c.cptrEl2Tfp = 0#1)

/-- EL3's control lets an access from below EL3 past (R151): it counts only when EL3 is implemented and uses AArch64. -/
def el3Lets (p : Config.Params) (c : Ctx) : Prop :=
  p.haveEl3 = true → c.el3AArch32 = false → c.cptrEl3Tfp = 0#1

/-- The conditions under which R151 says that a level may read and write FPSR. -/
def accessGranted (p : Config.Params) (c : Ctx) : Prop :=
  match c.el with
  | .el0 =>
    (c.cpacrFpen = 0b11#2 ∨ c.el1AArch32 = true ∨ (c.el2Enabled = true ∧ c.e2h = 1#1 ∧ c.tge = 1#1)) ∧
      el2Lets c (c.tge == 1#1) ∧ el3Lets p c
  | .el1 => c.cpacrFpen.getLsbD 0 = true ∧ el2Lets c false ∧ el3Lets p c
  | .el2 =>
    (c.e2h = 0#1 → c.cptrEl2Tfp = 0#1) ∧ (c.e2h = 1#1 → c.cptrEl2Fpen.getLsbD 0 = true) ∧ el3Lets p c
  | .el3 => c.cptrEl3Tfp = 0#1

/-- The premise `NormalExecution` of 92_eei_decisions.md, at one step. -/
abbrev normalExecution (c : Ctx) : Prop := c.halted = false

/-- The premise `NoFPTraps`, at one step: all six FPCR enables are 0. -/
abbrev noFpTraps (c : Ctx) : Prop := ∀ e : FpExc, FpExc.enable c e = 0#1

/-- The premise `HardwiredRES0`. -/
abbrev hardwiredRes0 (p : Config.Params) : Prop := p.res0WritableMask = 0#64

/-- The premise `FPSRWritten`: some MSR FPSR has completed since reset. -/
abbrev fpsrWritten (s : State) : Prop := s.fpsr.known = BitVec.allOnes 64

/-- The state is final for a run whose launch parameter END_PC is `endPc` (R168). -/
abbrev finalAt (endPc : Word) (s : State) : Prop := s.pc = endPc

/-- The invariant of the machine. -/
structure Inv (s : State) : Prop where
  /-- The program text is in canonical form. -/
  text : Memory.wf s.text = true
  /-- No bit of FPSR is stored outside the storage of this implementation (R39). -/
  stored : s.fpsr.val &&& ~~~ implMask Config.params = 0#64
  /-- The pc is a multiple of 4 (R42). -/
  aligned : s.pc.toNat % 4 = 0
  /-- Without floating-point traps the FPCR enables are 0 (R122). -/
  enables : Config.params.fpTrapsImplemented = false → noFpTraps s.ctx

/-- The next step replaces FPSR: it is a reset, or it runs a fetched `MSR FPSR, <Xt>`. -/
def replacesFpsr (s : State) : Prop :=
  s.nextAction = .reset ∨
    (s.nextAction = .run ∧ ∃ bs t rest, fetch s.text s.pc = .bytes bs ∧ decodeBytes bs = .ok (.msrFpsr t, rest))

/-- A run in which no step replaces FPSR: between two writes (R127). -/
inductive QuietRun : State → State → Prop where
  | refl (s : State) : QuietRun s s
  | step {s t u : State} : QuietRun s t → ¬ replacesFpsr t → Machine.step t = .next u → QuietRun s u

/-- A run of the machine: any number of steps, each answering a next state. -/
inductive Run : State → State → Prop where
  | refl (s : State) : Run s s
  | step {s t u : State} : Run s t → Machine.step t = .next u → Run s u

end Sys2Proof.Machine
end

