-- ==== Sys2Proof/Certificates/Slice0/Obligations.lean ====
section
/-! DEFINITION. The statements for the provers. Each docstring cites the rule of spec/ it formalises. -/

namespace Sys2Proof.Machine

/-- "In order; the first true condition decides": the way R91 to R93 are read. The last outcome is that of no condition
being true. -/
def firstTrue : List (Bool × Access) → Access → Access
  | [], last => last
  | (cond, outcome) :: rest, last => if cond = true then outcome else firstTrue rest last

/-- The context with CPACR_EL1's control permissive. -/
def Ctx.permitEl1 (c : Ctx) : Ctx := { c with cpacrFpen := 0b11#2 }

/-- The context with CPTR_EL2's controls permissive. -/
def Ctx.permitEl2 (c : Ctx) : Ctx := { c with cptrEl2Fpen := 0b11#2, cptrEl2Tfp := 0#1 }

/-- The context with CPTR_EL3's control permissive. -/
def Ctx.permitEl3 (c : Ctx) : Ctx := { c with cptrEl3Tfp := 0#1 }

/-- The two contexts agree on what the EL2 arm of the access check mentions (R102). -/
def Ctx.agreeAtEl2 (c c' : Ctx) : Prop :=
  c.halted = c'.halted ∧ c.sdd = c'.sdd ∧ c.el3AArch32 = c'.el3AArch32 ∧ c.e2h = c'.e2h ∧
    c.cptrEl2Fpen = c'.cptrEl2Fpen ∧ c.cptrEl2Tfp = c'.cptrEl2Tfp ∧ c.cptrEl3Tfp = c'.cptrEl3Tfp

/-- The two contexts agree on what the EL1 arm mentions (R102). -/
def Ctx.agreeAtEl1 (c c' : Ctx) : Prop :=
  c.agreeAtEl2 c' ∧ c.cpacrFpen = c'.cpacrFpen ∧ c.el2Enabled = c'.el2Enabled ∧ c.el2AArch32 = c'.el2AArch32

/-- The two contexts agree on what the EL0 arm mentions (R102). -/
def Ctx.agreeAtEl0 (c c' : Ctx) : Prop :=
  c.agreeAtEl1 c' ∧ c.el1AArch32 = c'.el1AArch32 ∧ c.tge = c'.tge

end Sys2Proof.Machine

open Sys2Proof Sys2Proof.Machine

/-! ### The register -/

/-- R36: the masks have the stated values. The parameters are open (log entry 1); RES0_WRITABLE_MASK is the spec's D2 (log
entry 26). -/
def Obligations.MaskValues : Prop :=
  nzcvMask = 0x00000000F0000000#64 ∧ qcMask = 0x0000000008000000#64 ∧ cumMask = 0x000000000000009F#64 ∧
    ∀ p : Config.Params,
      fieldMask p = qcMask ||| cumMask ||| (if p.haveAArch32Fp then nzcvMask else 0#64) ∧
      fieldMask p = (if p.haveAArch32Fp then 0x00000000F800009F#64 else 0x000000000800009F#64) ∧
      res0Mask p = ~~~ fieldMask p ∧
      res0Mask p = (if p.haveAArch32Fp then 0xFFFFFFFF07FFFF60#64 else 0xFFFFFFFFF7FFFF60#64) ∧
      implMask p = fieldMask p ||| (p.res0WritableMask &&& res0Mask p) ∧
      (p.res0WritableMask = 0#64 → implMask p = fieldMask p)

/-- R21: where each named field stands, which are cumulative, and which bits are RES0, over all 64 bits (N, Z, C, V only with
AArch32 floating-point). -/
def Obligations.BitAssignment : Prop :=
  (NamedField.n.bit = 31 ∧ NamedField.z.bit = 30 ∧ NamedField.c.bit = 29 ∧ NamedField.v.bit = 28 ∧
    NamedField.qc.bit = 27 ∧ NamedField.idc.bit = 7 ∧ NamedField.ixc.bit = 4 ∧ NamedField.ufc.bit = 3 ∧
    NamedField.ofc.bit = 2 ∧ NamedField.dzc.bit = 1 ∧ NamedField.ioc.bit = 0) ∧
    (∀ f : NamedField, f.cumulative = true ↔ f ∈ [.qc, .idc, .ixc, .ufc, .ofc, .dzc, .ioc]) ∧
    ∀ (p : Config.Params) (i : Nat), i < 64 →
      ((fieldMask p).getLsbD i = true ↔ ∃ f : NamedField, f.present p = true ∧ f.bit = i) ∧
      ((res0Mask p).getLsbD i = true ↔
        32 ≤ i ∨ (8 ≤ i ∧ i ≤ 26) ∨ (5 ≤ i ∧ i ≤ 6) ∨ (28 ≤ i ∧ i ≤ 31 ∧ p.haveAArch32Fp = false))

/-- R37, the spec's own treatment of RES0 (D2; log entry 26): a RES0 bit outside RES0_WRITABLE_MASK reads 0 and ignores writes; one inside it reads the value last written, and no
event changes it. -/
def Obligations.Res0BitBehaviour : Prop :=
  ∀ (p : Config.Params) (i : Nat), (res0Mask p).getLsbD i = true →
    (p.res0WritableMask.getLsbD i = false → ∀ (f : Fpsr) (d v : Word),
      (f.observe p d).getLsbD i = false ∧ (Fpsr.written p v).val.getLsbD i = false) ∧
    (p.res0WritableMask.getLsbD i = true → ∀ d v : Word, ((Fpsr.written p v).observe p d).getLsbD i = v.getLsbD i) ∧
    (∀ (e : Event) (s u : State), applyEvent p e s = .next u →
      u.fpsr.val.getLsbD i = s.fpsr.val.getLsbD i ∧ u.fpsr.known.getLsbD i = s.fpsr.known.getLsbD i)

/-! ### The access check -/

/-- R91: the access check at EL0. -/
def Obligations.AccessCheckAtEl0 : Prop :=
  ∀ (p : Config.Params) (c : Ctx), c.el = .el0 →
    let el2 := c.el2Enabled && !c.el2AArch32
    let el1Denies := !c.el1AArch32 && !(c.el2Enabled && c.e2h == 1#1 && c.tge == 1#1) && c.cpacrFpen != 0b11#2
    let el3Denies := p.haveEl3 && !c.el3AArch32 && c.cptrEl3Tfp == 1#1
    accessCheck p c = firstTrue
      [(preUndefined p c, .undefined),
       (el1Denies && el2 && c.tge == 1#1, .trap .el2 0x00),
       (el1Denies, .trap .el1 0x07),
       (el2 && c.e2h == 1#1 && c.tge == 1#1 && c.cptrEl2Fpen != 0b11#2, .trap .el2 0x07),
       (el2 && c.e2h == 1#1 && !c.cptrEl2Fpen.getLsbD 0, .trap .el2 0x07),
       (el2 && c.e2h != 1#1 && c.cptrEl2Tfp == 1#1, .trap .el2 0x07),
       (el3Denies && c.halted && c.sdd == 1#1, .undefined),
       (el3Denies, .trap .el3 0x07)]
      .allow

/-- R92: the access check at EL1. -/
def Obligations.AccessCheckAtEl1 : Prop :=
  ∀ (p : Config.Params) (c : Ctx), c.el = .el1 →
    let el2 := c.el2Enabled && !c.el2AArch32
    let el3Denies := p.haveEl3 && !c.el3AArch32 && c.cptrEl3Tfp == 1#1
    accessCheck p c = firstTrue
      [(preUndefined p c, .undefined),
       (!c.cpacrFpen.getLsbD 0, .trap .el1 0x07),
       (el2 && c.e2h != 1#1 && c.cptrEl2Tfp == 1#1, .trap .el2 0x07),
       (el2 && c.e2h == 1#1 && !c.cptrEl2Fpen.getLsbD 0, .trap .el2 0x07),
       (el3Denies && c.halted && c.sdd == 1#1, .undefined),
       (el3Denies, .trap .el3 0x07)]
      .allow

/-- R93: the access check at EL2. -/
def Obligations.AccessCheckAtEl2 : Prop :=
  ∀ (p : Config.Params) (c : Ctx), c.el = .el2 →
    let el3Denies := p.haveEl3 && !c.el3AArch32 && c.cptrEl3Tfp == 1#1
    accessCheck p c = firstTrue
      [(preUndefined p c, .undefined),
       (c.e2h == 0#1 && c.cptrEl2Tfp == 1#1, .trap .el2 0x07),
       (c.e2h == 1#1 && !c.cptrEl2Fpen.getLsbD 0, .trap .el2 0x07),
       (el3Denies && c.halted && c.sdd == 1#1, .undefined),
       (el3Denies, .trap .el3 0x07)]
      .allow

/-- R94: the access check at EL3 tests CPTR_EL3.TFP and nothing else. -/
def Obligations.AccessCheckAtEl3 : Prop :=
  ∀ (p : Config.Params) (c : Ctx), c.el = .el3 →
    (c.cptrEl3Tfp = 1#1 → accessCheck p c = .trap .el3 0x07) ∧ (c.cptrEl3Tfp = 0#1 → accessCheck p c = .allow)

/-- R95: the six conditions of `Pre`, and that below EL3 it decides before anything else. -/
def Obligations.PreDecidesFirst : Prop :=
  ∀ (p : Config.Params) (c : Ctx),
    (preUndefined p c = true ↔
      c.halted = true ∧ p.haveEl3 = true ∧ c.sdd = 1#1 ∧ p.el3TrapPriorityWhenSdd = true ∧ c.el3AArch32 = false ∧
        c.cptrEl3Tfp = 1#1) ∧
    (c.el ≠ .el3 → preUndefined p c = true → accessCheck p c = .undefined) ∧
    (c.el = .el3 → preUndefined p c = true → accessCheck p c = .trap .el3 0x07)

/-- R151: the access check allows exactly under the conditions R151 lists for the level. -/
def Obligations.AccessAllowedExactlyWhenGranted : Prop :=
  ∀ (p : Config.Params) (c : Ctx), accessCheck p c = .allow ↔ accessGranted p c

/-- R102: the fields an arm does not mention have no influence on it. -/
def Obligations.AccessCheckIndependence : Prop :=
  ∀ (p : Config.Params) (c c' : Ctx), c.el = c'.el →
    (c.el = .el3 → c.cptrEl3Tfp = c'.cptrEl3Tfp → accessCheck p c = accessCheck p c') ∧
    (c.el = .el2 → c.agreeAtEl2 c' → accessCheck p c = accessCheck p c') ∧
    (c.el = .el1 → c.agreeAtEl1 c' → accessCheck p c = accessCheck p c') ∧
    (c.el = .el0 → c.agreeAtEl0 c' → accessCheck p c = accessCheck p c')

/-- R90, R140: the outcomes, and the levels and causes each can arise at. -/
def Obligations.OutcomesAndWhereTheyArise : Prop :=
  ∀ (p : Config.Params) (c : Ctx),
    match accessCheck p c with
    | .allow => True
    | .trap .el1 ec => ec = 0x07 ∧ (c.el = .el0 ∧ c.cpacrFpen ≠ 0b11#2 ∨ c.el = .el1 ∧ c.cpacrFpen.getLsbD 0 = false)
    | .trap .el2 ec =>
      (ec = 0x00 ∧ c.el = .el0 ∧ c.cpacrFpen ≠ 0b11#2 ∧ c.el2Enabled = true ∧ c.el2AArch32 = false ∧ c.tge = 1#1) ∨
        (ec = 0x07 ∧ c.el ≠ .el3 ∧ (c.el ≠ .el2 → c.el2Enabled = true ∧ c.el2AArch32 = false) ∧
          ((c.e2h = 0#1 ∧ c.cptrEl2Tfp = 1#1) ∨ (c.e2h = 1#1 ∧ c.cptrEl2Fpen.getLsbD 0 = false) ∨
            (c.el = .el0 ∧ c.e2h = 1#1 ∧ c.tge = 1#1 ∧ c.cptrEl2Fpen ≠ 0b11#2)))
    | .trap .el3 ec =>
      ec = 0x07 ∧ c.cptrEl3Tfp = 1#1 ∧
        (c.el ≠ .el3 → p.haveEl3 = true ∧ c.el3AArch32 = false ∧ ¬ (c.halted = true ∧ c.sdd = 1#1))
    | .undefined =>
      c.el ≠ .el3 ∧ c.halted = true ∧ c.sdd = 1#1 ∧ p.haveEl3 = true ∧ c.el3AArch32 = false ∧ c.cptrEl3Tfp = 1#1
    | .trap .el0 _ => False

/-- R143, R152 (a): the trap with code 0x00 is exactly the denial by CPACR_EL1.FPEN at EL0 that TGE routes to EL2. -/
def Obligations.CodeZeroTrapExactlyUnderTge : Prop :=
  ∀ (p : Config.Params) (c : Ctx), accessCheck p c = .trap .el2 0x00 ↔
    c.el = .el0 ∧ preUndefined p c = false ∧ c.el1AArch32 = false ∧ c.cpacrFpen ≠ 0b11#2 ∧ c.el2Enabled = true ∧
      c.el2AArch32 = false ∧ c.tge = 1#1 ∧ c.e2h = 0#1

/-- R146: what the implementation-defined priority decides, and that it decides nothing elsewhere. -/
def Obligations.DebugPriorityParameter : Prop :=
  ∀ (p : Config.Params) (c : Ctx),
    (c.el ≠ .el3 ∧ c.halted = true ∧ c.sdd = 1#1 ∧ p.haveEl3 = true ∧ c.el3AArch32 = false ∧ c.cptrEl3Tfp = 1#1 →
      (p.el3TrapPriorityWhenSdd = true → accessCheck p c = .undefined) ∧
      (p.el3TrapPriorityWhenSdd = false → accessCheck p c =
        match accessCheck p c.permitEl3 with
        | .allow => .undefined
        | denial => denial) ∧
      accessCheck p c ≠ .trap .el3 0x07) ∧
    (¬ (c.el ≠ .el3 ∧ c.halted = true ∧ c.sdd = 1#1 ∧ p.haveEl3 = true ∧ c.el3AArch32 = false ∧ c.cptrEl3Tfp = 1#1) →
      ∀ b : Bool, accessCheck { p with el3TrapPriorityWhenSdd := b } c = accessCheck p c)

/-- R154: outside Debug state neither `Halted()` nor `EDSCR.SDD` has an effect: the outcome is never `Undefined`, and it depends
on neither EDSCR.SDD nor the priority parameter. -/
def Obligations.NoDebugEffectOutsideDebugState : Prop :=
  ∀ (p : Config.Params) (c : Ctx), normalExecution c →
    preUndefined p c = false ∧ accessCheck p c ≠ .undefined ∧
      ∀ (b : Bool) (d : Bit), accessCheck { p with el3TrapPriorityWhenSdd := b } { c with sdd := d } = accessCheck p c

/-- R145: of several controls that deny, the one of the lowest level decides. -/
def Obligations.LowestLevelControlDecides : Prop :=
  ∀ (p : Config.Params) (c : Ctx), c.el ≠ .el3 → preUndefined p c = false →
    accessCheck p c =
      match accessCheck p c.permitEl2.permitEl3, accessCheck p c.permitEl1.permitEl3 with
      | .allow, .allow => accessCheck p c.permitEl1.permitEl2
      | .allow, denial => denial
      | denial, _ => denial

/-- R152: with EL2 not enabled or using AArch32 no EL2 clause counts at EL0 and EL1; with EL3 not implemented or using AArch32 no
EL3 clause counts at EL0 to EL2. -/
def Obligations.DisabledLevelsDoNotTrap : Prop :=
  ∀ (p : Config.Params) (c : Ctx),
    (c.el = .el0 ∨ c.el = .el1 → c.el2Enabled = false ∨ c.el2AArch32 = true →
      accessCheck p c = accessCheck p c.permitEl2 ∧ ∀ ec, accessCheck p c ≠ .trap .el2 ec) ∧
    (c.el ≠ .el3 → p.haveEl3 = false ∨ c.el3AArch32 = true →
      accessCheck p c = accessCheck p c.permitEl3 ∧ accessCheck p c ≠ .undefined ∧ ∀ ec, accessCheck p c ≠ .trap .el3 ec)

/-! ### The two instructions -/

/-- R96, R98: a permitted `MRS <Xt>, FPSR` completes with `ReadFPSR()` in x[t] (the zero register still reads 0) and the pc 4
further. The conditions are R151's. The model's or the spec's own choices in it: the draw (D3, log entry 2), RES0 (D2, log entry
26), the zero register (GK7, log entry 21), the pc (D5, log entry 8). -/
def Obligations.MrsCompletesWithFpsr : Prop :=
  ∀ (t : Fin 32) (s : State), accessGranted Config.params s.ctx →
    ∃ u, exec (.mrsFpsr t) s = .next u ∧
      u.readX t = (if t = 31 then 0#64 else
        ((s.fpsr.val &&& s.fpsr.known) ||| (Config.draw s.draws &&& ~~~ s.fpsr.known)) &&& implMask Config.params) ∧
      u.fpsr = s.fpsr ∧ u.pc = s.pc + 4#64

/-- R97, R99: a permitted `MSR FPSR, <Xt>` completes with `x[t] & IMPL_MASK` in FPSR (0 for the zero register), every bit known,
and the pc 4 further. The conditions are R151's. The spec's own choices in it: D2 and D3 (log entries 26, 2), GK7 (log entry 21),
D5 (log entry 8). -/
def Obligations.MsrCompletesWithRegister : Prop :=
  ∀ (t : Fin 32) (s : State), accessGranted Config.params s.ctx →
    ∃ u, exec (.msrFpsr t) s = .next u ∧
      u.fpsr.val = (if h : t.val < 31 then s.x[t.val] else 0#64) &&& implMask Config.params ∧
      u.fpsr.known = 0xFFFFFFFFFFFFFFFF#64 ∧ u.pc = s.pc + 4#64

/-- R96, R101, R43, R60: what `MRS <Xt>, FPSR` leaves unchanged. Only x[t], the pc and the model's count of draws change.
The zero register is GK7 (log entry 21), the memory the program text alone (D7; log entries 7, 24), the count of draws, the
context and the inputs the model's own fields (log entries 2, 6). -/
def Obligations.MrsFrame : Prop :=
  ∀ (t : Fin 32) (s u : State), exec (.mrsFpsr t) s = .next u →
    (∀ t' : Fin 32, t' ≠ t → u.readX t' = s.readX t') ∧ u.fpsr = s.fpsr ∧ u.ctx = s.ctx ∧ u.pstateNzcv = s.pstateNzcv ∧
      u.inputs = s.inputs ∧ u.draws = s.draws + 1 ∧ u.text = s.text ∧ ∀ a : Nat, readByte u.text a = readByte s.text a

/-- R97, R101, R43, R60: what `MSR FPSR, <Xt>` leaves unchanged. Only FPSR and the pc change. The zero register is GK7 (log
entry 21), the memory the program text alone (D7; log entries 7, 24), the count of draws, the context and the inputs the
model's own fields (log entries 2, 6). -/
def Obligations.MsrFrame : Prop :=
  ∀ (t : Fin 32) (s u : State), exec (.msrFpsr t) s = .next u →
    (∀ t' : Fin 32, u.readX t' = s.readX t') ∧ u.x = s.x ∧ u.ctx = s.ctx ∧ u.pstateNzcv = s.pstateNzcv ∧
      u.inputs = s.inputs ∧ u.draws = s.draws ∧ u.text = s.text ∧ ∀ a : Nat, readByte u.text a = readByte s.text a

/-- R10, R96, R97, R147: either instruction completes where the access check allows, and where it denies ends in the trap or
the Undefined outcome the check names. That a trap and `UNDEFINED` end the run is the spec's decisions D10 and D11 (log
entries 10, 11). -/
def Obligations.DeniedAccessStops : Prop :=
  ∀ (i : Instr) (s : State),
    match accessCheck Config.params s.ctx with
    | .allow => ∃ u, exec i s = .next u
    | .trap target ec => exec i s = .fault (.trap target ec)
    | .undefined => exec i s = .fault .undefined

/-- R140, R90: an instruction stops in exactly one of five ways, under the same conditions for both and whatever the
registers and FPSR hold; it is never refused. That these outcomes end the run is the spec's decisions D10 and D11 (log
entries 10, 11). -/
def Obligations.BothInstructionsStopAlike : Prop :=
  ∀ (i j : Instr) (s s' : State), s.ctx = s'.ctx →
    (∀ f, exec i s = .fault f → exec j s' = .fault f ∧
      f ∈ [Fault.trap .el1 0x07, .trap .el2 0x07, .trap .el2 0x00, .trap .el3 0x07, .undefined]) ∧
    (∀ u, exec i s = .next u → ∃ u', exec j s' = .next u') ∧ ∀ r, exec i s ≠ .refused r

/-- R100, from general knowledge (GK7; log entry 21): number 31 is the zero register: `MSR FPSR, XZR` writes 0, `MRS XZR,
FPSR` discards the value and leaves every x register; the access check still runs. That a denied access ends the run is D10
and D11 (log entries 10, 11). -/
def Obligations.ZeroRegisterOperand : Prop :=
  ∀ s : State,
    (accessGranted Config.params s.ctx →
      (∃ u, exec (.mrsFpsr 31) s = .next u ∧ u.x = s.x) ∧ (∃ u, exec (.msrFpsr 31) s = .next u ∧ u.fpsr.val = 0#64)) ∧
    (¬ accessGranted Config.params s.ctx →
      (∃ f, exec (.mrsFpsr 31) s = .fault f) ∧ (∃ f, exec (.msrFpsr 31) s = .fault f))

/-- R65: a read changes no bit of FPSR; two reads with nothing between them agree on every known bit; a write does nothing beyond
replacing FPSR's contents (and the pc). -/
def Obligations.ReadsHaveNoSideEffect : Prop :=
  (∀ (a : Fin 32) (s u : State), exec (.mrsFpsr a) s = .next u → u.fpsr = s.fpsr) ∧
  (∀ (a b : Fin 32) (s u w : State), exec (.mrsFpsr a) s = .next u → exec (.mrsFpsr b) u = .next w → a ≠ 31 → b ≠ 31 →
    ∀ i, s.fpsr.known.getLsbD i = true → (w.readX b).getLsbD i = (u.readX a).getLsbD i) ∧
  (∀ (a : Fin 32) (s u : State), exec (.msrFpsr a) s = .next u → u = { s with fpsr := u.fpsr, pc := u.pc })

/-- R98, R99 (D2, D3; log entries 26, 2): after a permitted `MSR FPSR, Xa` a permitted `MRS Xb, FPSR` gives `x[a] &
IMPL_MASK`, with no draw in it; where a is 31 that is 0 (GK7; log entry 21). That the read sees the write just before it,
with no synchronisation and no interrupt between them, rests on the spec's decisions D8 (R66, GK10; log entry 15, PRESUMED,
unsafe) and D18 (log entry 16). -/
def Obligations.WrittenValueReadsBack : Prop :=
  ∀ (a b : Fin 32) (s : State), accessGranted Config.params s.ctx → b ≠ 31 →
    ∃ u w, exec (.msrFpsr a) s = .next u ∧ exec (.mrsFpsr b) u = .next w ∧
      w.readX b = s.readX a &&& implMask Config.params

/-- R98 (D2, D3; log entries 2, 26): what a read observes, bit by bit, and that the value it gives is a function of FPSR and the draw alone. -/
def Obligations.ReadFpsrBits : Prop :=
  ∀ (p : Config.Params) (f : Fpsr) (d : Word),
    f.observe p d = ((f.val &&& f.known) ||| (d &&& ~~~ f.known)) &&& implMask p ∧
      ∀ i, (f.observe p d).getLsbD i =
        ((implMask p).getLsbD i && (if f.known.getLsbD i then f.val.getLsbD i else d.getLsbD i))

/-- R99 (D2, D3; log entries 2, 26): a write replaces every named field by its bit of the value, ignores hardwired RES0 bits, and leaves every bit known. -/
def Obligations.WriteFpsrBits : Prop :=
  ∀ (p : Config.Params) (v : Word),
    (Fpsr.written p v).val = v &&& implMask p ∧ (Fpsr.written p v).known = 0xFFFFFFFFFFFFFFFF#64 ∧
      (∀ f : NamedField, f.present p = true → (Fpsr.written p v).val.getLsbD f.bit = v.getLsbD f.bit) ∧
      (∀ i, (implMask p).getLsbD i = false → (Fpsr.written p v).val.getLsbD i = false)

/-! ### The update events -/

/-- R121: with every enable of `E` clear, `FPExc(E)` sets exactly the cumulative bits of `E`, to a known 1, and changes nothing
else. -/
def Obligations.UntrappedExceptionsSetTheirBits : Prop :=
  ∀ (p : Config.Params) (E : ExcSet) (s : State), (∃ e, E.has e = true) →
    (∀ e, E.has e = true → FpExc.enable s.ctx e = 0#1) →
    ∃ u, applyEvent p (.fpExc E) s = .next u ∧ u = { s with fpsr := u.fpsr } ∧
      ∀ i, (u.fpsr.val.getLsbD i = true ↔ s.fpsr.val.getLsbD i = true ∨ ∃ e, E.has e = true ∧ e.bit = i) ∧
        (u.fpsr.known.getLsbD i = true ↔ s.fpsr.known.getLsbD i = true ∨ ∃ e, E.has e = true ∧ e.bit = i)

/-- R122, the spec's decision D13 and GK12 (log entries 12, 13): with some enable of `E` set, `FPExc(E)` ends in the refusal `TrappedFPException(E)`; and where floating-point traps are
not implemented the enables the machine sees are 0, so that it never does. -/
def Obligations.EnabledExceptionIsTrapped : Prop :=
  ∀ (p : Config.Params) (E : ExcSet) (s : State),
    ((∃ e, E.has e = true ∧ FpExc.enable s.ctx e = 1#1) →
      applyEvent p (.fpExc E) s = .refused (.trappedFPException E)) ∧
    (p.fpTrapsImplemented = false → noFpTraps (s.ctx.held p) ∧
      applyEvent p (.fpExc E) { s with ctx := s.ctx.held p } ≠ .refused (.trappedFPException E)) ∧
    (p.fpTrapsImplemented = true → s.ctx.held p = s.ctx)

/-- R124: `Sat` sets QC to a known 1, whatever the FPCR enables hold, and changes nothing else. -/
def Obligations.SaturationSetsQc : Prop :=
  ∀ (p : Config.Params) (s : State), applyEvent p .sat s = .next { s with fpsr :=
    { val := s.fpsr.val ||| 0x0000000008000000#64, known := s.fpsr.known ||| 0x0000000008000000#64 } }

/-- R125: `A32Cmp(n,z,c,v)` overwrites bits [31:28] and makes them known, leaving every other bit. Where AArch32 floating-point is
not implemented R125 says that there is no such event; that one offered as an input is refused by name is THE MODEL'S CHOICE (log
entry 14). -/
def Obligations.AArch32CompareWritesFlags : Prop :=
  ∀ (p : Config.Params) (n z c v : Bit) (s : State),
    (p.haveAArch32Fp = true → ∃ u, applyEvent p (.a32Cmp n z c v) s = .next u ∧ u = { s with fpsr := u.fpsr } ∧
      (∀ i, u.fpsr.val.getLsbD i =
        (if i = 31 then n.getLsbD 0 else if i = 30 then z.getLsbD 0 else if i = 29 then c.getLsbD 0
          else if i = 28 then v.getLsbD 0 else s.fpsr.val.getLsbD i)) ∧
      (∀ i, u.fpsr.known.getLsbD i = (decide (28 ≤ i ∧ i ≤ 31) || s.fpsr.known.getLsbD i))) ∧
    (p.haveAArch32Fp = false → applyEvent p (.a32Cmp n z c v) s = .refused (.noSuchEvent (.a32Cmp n z c v)))

/-- R121, R124, R125: an event writes FPSR and nothing else; that its step also leaves the pc and the x registers, the
instruction that raised it not being in the model, is THE MODEL'S CHOICE (log entry 14). That no access control has an
effect on it, so that with the same FPCR enables every context gives the same FPSR, is the spec's own decision D14 (R131;
log entry 14, DESIGN CHOICE): an event stands for an instruction that did execute, and it does not follow that
floating-point instructions are always permitted. -/
def Obligations.EventsChangeFpsrAlone : Prop :=
  ∀ (p : Config.Params) (e : Event) (s u : State), applyEvent p e s = .next u →
    u = { s with fpsr := u.fpsr } ∧
      ∀ c : Ctx, (∀ x, FpExc.enable c x = FpExc.enable s.ctx x) →
        applyEvent p e { s with ctx := c } = .next { u with ctx := c }

/-- R43, R126, delivered as an input (log entry 20): an AArch64 floating-point comparison sets PSTATE.{N,Z,C,V} and leaves FPSR. That the step
leaves the pc, the x registers and the text is THE MODEL'S CHOICE (log entry 20). -/
def Obligations.AArch64CompareSetsPstate : Prop :=
  ∀ (n z c v : Bit) (s : State), s.nextAction = .a64Cmp n z c v →
    ∃ u, step s = .next u ∧ u.pstateNzcv = n ++ z ++ c ++ v ∧ u.fpsr = s.fpsr ∧ u.x = s.x ∧ u.pc = s.pc ∧ u.text = s.text

/-- R126: no step but a write of FPSR, a reset or an AArch32 comparison changes FPSR.{N,Z,C,V}. The events and the AArch64
comparison are inputs (D14; log entries 14, 20), each whole and in program order (D8; log entry 15); the model has no
interrupt and no FPSCR write among its steps (D18, D20; log entries 16, 19). -/
def Obligations.ConditionFlagWriters : Prop :=
  ∀ s u : State, step s = .next u → ¬ replacesFpsr s → (∀ n z c v, s.nextAction ≠ .update (.a32Cmp n z c v)) →
    ∀ i, 28 ≤ i → i ≤ 31 →
      u.fpsr.val.getLsbD i = s.fpsr.val.getLsbD i ∧ u.fpsr.known.getLsbD i = s.fpsr.known.getLsbD i

/-- R127: "between two writes, each cumulative bit is monotonically non-decreasing", over runs of any length. That "between"
is measured in program order is R66, the spec's decision D8 (GK10; log entry 15, PRESUMED, unsafe), that no interrupt
handler writes FPSR between two steps D18 (log entry 16, unsafe), that the events are inputs D14 (log entry 14), that a bit
is known D3 (log entry 2); a write through the FPSCR view is no step of the model (D20; log entry 19). -/
def Obligations.CumulativeBitsNeverClear : Prop :=
  ∀ s u : State, QuietRun s u → ∀ f : NamedField, f.cumulative = true →
    (s.fpsr.val.getLsbD f.bit = true → u.fpsr.val.getLsbD f.bit = true) ∧
      (s.fpsr.known.getLsbD f.bit = true → u.fpsr.known.getLsbD f.bit = true)

/-- R130, the spec's decision D20 (log entry 19): FPSCR_read_mapped gives the named fields as ReadFPSR would;
FPSCR_write_mapped writes them and leaves every other bit. The positions are GK6; `ReadFPSR` is with D2 and D3 (log entries
26, 2). -/
def Obligations.FpscrViewFunctions : Prop :=
  ∀ (p : Config.Params) (f : Fpsr) (d v : Word),
    (∀ g : NamedField, g.present p = true → (f.fpscrRead p d).getLsbD g.bit = (f.observe p d).getLsbD g.bit ∧
      (f.fpscrWrite p v).val.getLsbD g.bit = v.getLsbD g.bit ∧ (f.fpscrWrite p v).known.getLsbD g.bit = true) ∧
    (∀ i, (res0Mask p).getLsbD i = true → (f.fpscrWrite p v).val.getLsbD i = f.val.getLsbD i ∧
      (f.fpscrWrite p v).known.getLsbD i = f.known.getLsbD i)

/-- R38, the spec's decision D20 (log entry 19): each named field of FPSR and FPSCR's field of the same name are one piece
of storage: a write through either register is seen by a read through the other, and so is an update. The positions are GK6;
reads and writes are with D2 and D3 (log entries 26, 2). -/
def Obligations.FpscrSharesStorage : Prop :=
  ∀ (p : Config.Params) (f : Fpsr) (d v : Word) (g : NamedField), g.present p = true →
    ((f.fpscrWrite p v).observe p d).getLsbD g.bit = v.getLsbD g.bit ∧
      ((Fpsr.written p v).fpscrRead p d).getLsbD g.bit = v.getLsbD g.bit ∧
      ((f.setBit g.bit).fpscrRead p d).getLsbD g.bit = true ∧ ((f.setBit g.bit).observe p d).getLsbD g.bit = true

/-! ### Reset -/

/-- R160: reset leaves every storage bit of FPSR unknown. -/
def Obligations.ResetLeavesFpsrUnknown : Prop :=
  (State.reset.fpsr.val = 0#64 ∧ State.reset.fpsr.known = 0#64) ∧
    ∀ s : State, s.nextAction = .reset → ∃ u, step s = .next u ∧ u.fpsr.val = 0#64 ∧ u.fpsr.known = 0#64

/-- THE MODEL'S CHOICE, log entries 3, 4, 18 and 20 (the spec gives none of these values): what a reset event leaves beside
FPSR. That a reset, its context and the later inputs come from the list of inputs is log entry 6, the draws are log entry 2
and the text is log entry 7. -/
def Obligations.ResetEventChoices : Prop :=
  ∀ s : State, s.nextAction = .reset → ∃ u, step s = .next u ∧
    (∀ t, u.readX t = 0#64) ∧ u.pc = Config.resetPc ∧ u.pstateNzcv = 0#4 ∧ u.ctx = s.takeInput.ctx ∧ u.text = s.text ∧
      u.inputs = s.inputs.tail ∧ u.draws = s.draws

/-- R163, R160, the spec's decision D3 (log entry 2): after reset each permitted read gives a draw of its own, masked by
IMPL_MASK, and stores nothing. The mask is D2 (log entry 26); that nothing comes between the two reads is D8 and D18 (log
entries 15, 16). -/
def Obligations.UnknownBitsReadAsDraws : Prop :=
  ∀ (a b : Fin 32) (s : State), s.fpsr.known = 0#64 → accessGranted Config.params s.ctx → a ≠ 31 → b ≠ 31 →
    ∃ u w, exec (.mrsFpsr a) s = .next u ∧ exec (.mrsFpsr b) u = .next w ∧
      u.readX a = Config.draw s.draws &&& implMask Config.params ∧
      w.readX b = Config.draw (s.draws + 1) &&& implMask Config.params ∧ w.fpsr = s.fpsr

/-! ### The step -/

/-- The fetch and decode of R42, R62 and R76: when an instruction is next and the bytes at the pc decode to `i`, the step is
`exec i` in the state with the step's context taken from the inputs. That this is so in Debug state too is THE MODEL'S
CHOICE (log entry 27). What is next is an input (log entry 6) and no interrupt comes first (D18; log entry 16); the fetch
and its byte order are D5, D6 and GK8 (log entry 8), the layout of the word GK11 (log entry 9). -/
def Obligations.StepRunsDecodedInstruction : Prop :=
  ∀ (s : State) (bs rest : List Byte) (i : Instr), s.nextAction = .run → fetch s.text s.pc = .bytes bs →
    decodeBytes bs = .ok (i, rest) → step s = exec i s.takeInput

/-- R40, R120, in the form of log entries 6 and 13: what a step takes from the inputs: the context of the first one, held to R122's constraint, and that one is gone;
with none left the state is as it was. An event in it is the whole step (D14, log entry 14). -/
def Obligations.StepTakesOneInput : Prop :=
  ∀ s : State,
    (s.inputs = [] → s.takeInput = s ∧ s.nextAction = .run) ∧
    (∀ i rest, s.inputs = i :: rest → s.nextAction = i.action ∧
      s.takeInput = { s with ctx := i.ctx.held Config.params, inputs := rest }) ∧
    (∀ e, s.nextAction = .update e → step s = applyEvent Config.params e s.takeInput)

/-- R42, R63, the spec's decisions D5 and D6 (log entry 8): no fetch at a pc that is not a multiple of 4, nor where pc + 4
would exceed 2^64 - 1 (in Debug state too: THE MODEL'S CHOICE, log entry 27). What is next is an input (log entry 6). -/
def Obligations.FetchRefusals : Prop :=
  ∀ s : State, s.nextAction = .run →
    (s.pc.toNat % 4 ≠ 0 → step s = .refused (.misalignedFetch s.pc)) ∧
    (s.pc.toNat % 4 = 0 → s.pc.toNat + 4 > 2 ^ 64 - 1 → step s = .refused (.fetchPastTop s.pc))

/-- R76, the spec's decision D9 (log entry 9): a fetched word outside the opcode table is refused by name. That the word is
assembled little-endian from the four bytes is R62, the spec's D6 and GK8 (log entry 8, PRESUMED, unsafe for the byte
order). That a word is fetched in Debug state too is THE MODEL'S CHOICE (log entry 27). -/
def Obligations.WordOutsideTableRefused : Prop :=
  ∀ (s : State) (b0 b1 b2 b3 : Byte), s.nextAction = .run → fetch s.text s.pc = .bytes [b0, b1, b2, b3] →
    (b3 ++ b2 ++ b1 ++ b0 : BitVec 32) &&& 0xFFFFFFE0#32 ≠ 0xD53B4420#32 →
    (b3 ++ b2 ++ b1 ++ b0 : BitVec 32) &&& 0xFFFFFFE0#32 ≠ 0xD51B4420#32 →
    step s = .refused (.notDecoded (.notInOpcodeTable (b3 ++ b2 ++ b1 ++ b0)))

/-- The pc after a step. R42, the spec's decision D5 (log entry 8): an instruction that completes moves it 4 further, without
wrapping. R121, R124 and R125 have an update event write FPSR and nothing
else, R121 leaving the pc to the instruction that raised it; that the step leaves the pc, no such instruction being in the model,
is THE MODEL'S CHOICE (log entry 14), and so it is of an AArch64 comparison (log entry 20). -/
def Obligations.PcAfterAStep : Prop :=
  ∀ s u : State, step s = .next u →
    (s.nextAction = .run → u.pc.toNat = s.pc.toNat + 4) ∧
    ((∃ e, s.nextAction = .update e) → u.pc = s.pc) ∧
    ((∃ n z c v, s.nextAction = .a64Cmp n z c v) → u.pc = s.pc)

/-- R68, the spec's decisions D6 and D7 (log entry 7): the program text does not change, and every fetch at an address gives
the same for the whole run. The fetch is D5 and D6 with GK8 (log entry 8); a reset keeps the text by THE MODEL'S CHOICE (log
entry 18). -/
def Obligations.ProgramTextIsImmutable : Prop :=
  ∀ s u : State, Run s u → u.text = s.text ∧ ∀ pc : Word, fetch u.text pc = fetch s.text pc

/-- R40: no rule writes the context: after a step it is the one the step's input gave (held in State as log entry 6 says).
An enable is held as R122 says (D13, GK12; log entry 13); the context after a reset is its own input's (log entry 18). -/
def Obligations.ContextComesFromInputs : Prop :=
  ∀ s u : State, step s = .next u → u.ctx = s.takeInput.ctx ∧ u.inputs = s.takeInput.inputs

/-- Every step keeps the invariant, from every state that has it. Its clauses: no bit stored outside IMPL_MASK (R39; D2, D3;
log entries 26, 2); the enables without floating-point traps (R122; D13, GK12; log entry 13); the pc a multiple of 4 (R42;
D5, log entry 8), which an event or a comparison keeps because its step leaves the pc (log entries 14, 20), and a reset step
only because the pc it gives, RESET_PC, is 0, THE MODEL'S CHOICE (log entries 4, 18; unsafe; the spec leaves RESET_PC open);
the text in canonical form, which is the model's own form of the program text (log entry 7). -/
def Obligations.StepKeepsInvariant : Prop :=
  ∀ s u : State, Inv s → step s = .next u → Inv u

/-- The invariant holds right after reset (with the values of log entries 4, 5 and 7). FPSR after reset is R160's (D3, D16;
log entry 2). -/
def Obligations.ResetMeetsInvariant : Prop := Inv State.reset

/-- Log entry 7: a word placed by `withFetchWord` is what the next step runs. The bytes are placed and fetched little-endian
at a pc that may be fetched from (R62, R63; D5, D6, GK8; log entry 8), the layout of the word is GK11 (log entry 9), the
inputs are log entry 6, and that the word is fetched in Debug state too is THE MODEL'S CHOICE (log entry 27). -/
def Obligations.PlacedWordRunsNext : Prop :=
  ∀ (s : State) (w : Nat) (i : Instr), Memory.wf s.text = true → decodeTableWord 32 w = some i →
    step (s.withFetchWord 32 w) = exec i (s.withFetchWord 32 w).takeInput

/-! ### Encoding -/

/-- R71, R75, R76 (the layout is the spec's GK11; log entry 9): decoding the encoding of an instruction gives it back, as a
word and as bytes, and a word that decodes to an instruction is its encoding. The order of the four bytes is R62, the spec's
D6 and GK8 (log entry 8, PRESUMED). -/
def Obligations.DecodeEncodeAgree : Prop :=
  (∀ (i : Instr) (rest : List Byte), i.wellFormed = true →
    decodeWord (encode i) = .ok i ∧ decodeBytes (bytesOfWord (encode i) ++ rest) = .ok (i, rest)) ∧
  (∀ (w : InstrWord) (i : Instr), decodeWord w = .ok i → encode i = w)

/-- R76 (the layout is the spec's GK11, the refusals its D9; log entry 9): the decoder on every word: the two patterns, the refusal by name of every other word, and that the patterns do not
overlap. -/
def Obligations.DecoderOnEveryWord : Prop :=
  ∀ w : BitVec 32,
    (w &&& 0xFFFFFFE0#32 = 0xD53B4420#32 → ∃ t, decodeWord w = .ok (.mrsFpsr t) ∧ t.val = w.toNat % 32) ∧
    (w &&& 0xFFFFFFE0#32 = 0xD51B4420#32 → ∃ t, decodeWord w = .ok (.msrFpsr t) ∧ t.val = w.toNat % 32) ∧
    (w &&& 0xFFFFFFE0#32 ≠ 0xD53B4420#32 → w &&& 0xFFFFFFE0#32 ≠ 0xD51B4420#32 →
      decodeWord w = .error (.notInOpcodeTable w)) ∧
    ¬ (w &&& 0xFFFFFFE0#32 = 0xD53B4420#32 ∧ w &&& 0xFFFFFFE0#32 = 0xD51B4420#32)

/-- R71, R72, R73, R74 (the positions are the spec's GK11; log entry 9): the fields of an instruction's word. -/
def Obligations.EncodedFields : Prop :=
  ∀ t : Fin 32,
    (∀ i ∈ [Instr.mrsFpsr t, .msrFpsr t],
      (encode i).extractLsb' 22 10 = 0b1101010100#10 ∧ (encode i).extractLsb' 19 2 = 0b11#2 ∧
      (encode i).extractLsb' 16 3 = 0b011#3 ∧ (encode i).extractLsb' 12 4 = 0b0100#4 ∧
      (encode i).extractLsb' 8 4 = 0b0100#4 ∧ (encode i).extractLsb' 5 3 = 0b001#3 ∧
      ((encode i).extractLsb' 0 5).toNat = t.val) ∧
    (encode (.mrsFpsr t)).extractLsb' 21 1 = 1#1 ∧ (encode (.msrFpsr t)).extractLsb' 21 1 = 0#1

/-- R75, R76 (the layout is the spec's GK11; log entry 9): words written out from the encoding decode to the instructions they stand for, and their neighbours are refused. -/
def Obligations.WordsOfTheEncoding : Prop :=
  (∀ wi ∈ [(0xD53B4420#32, Instr.mrsFpsr 0), (0xD53B4425#32, .mrsFpsr 5), (0xD53B443F#32, .mrsFpsr 31),
      (0xD51B4420#32, .msrFpsr 0), (0xD51B4421#32, .msrFpsr 1), (0xD51B443F#32, .msrFpsr 31)],
    decodeWord wi.1 = .ok wi.2) ∧
  (∀ w ∈ [0xD53B4400#32, 0xD53B4440#32, 0xD53B4520#32, 0xD53B5420#32, 0xD5384420#32, 0xD5334420#32, 0xD57B4420#32],
    decodeWord w = .error (.notInOpcodeTable w))

/-- R78, R80: an instruction's spelling, with either name of the register, is transcribed back to it. The spellings are the
spec's GK7 and GK11 (log entry 21). -/
def Obligations.SpellingsTranscribe : Prop :=
  ∀ i : Instr, transcribe (i.spelling "FPSR") = some i ∧ transcribe (i.spelling "S3_3_C4_C4_1") = some i
end

