-- ==== Sys2Proof/Laws/Memory.lean ====
section
/-! SUPPORT. The program text: reading what was written, and that every operation keeps the canonical form. -/

namespace Sys2Proof.Machine

/-- A byte written is read back, and every other address reads as before. -/
theorem readByte_writeByte (m : List Host.Cell) (a a' : Nat) (b : Byte) (lo : Nat) (hm : risingFrom lo m = true) :
    readByte (writeByte a b m) a' = if a' = a then some b else readByte m a' := by
  induction m generalizing lo with
  | nil => simp [writeByte, readByte, eq_comm]
  | cons kc m ih =>
    obtain ⟨k, c⟩ := kc
    simp only [risingFrom, Bool.and_eq_true, decide_eq_true_eq] at hm
    simp only [writeByte]
    split
    · by_cases h : a' = a
      · simp [readByte, h]
      · simp [readByte, h, Ne.symm h]
    · split
      · rename_i hak
        by_cases h : a' = a
        · simp [readByte, h]
        · have hka : k ≠ a' := fun e => h (e ▸ hak.symm)
          simp [readByte, h, hka, Ne.symm h]
      · simp only [readByte, ih (k + 1) hm.2]
        by_cases hk : k = a'
        · subst hk; simp [Ne.symm ‹¬a = k›]
        · simp [hk]

/-- Writing a byte at an address of the machine keeps the addresses strictly rising. -/
theorem risingFrom_writeByte (m : List Host.Cell) (a lo : Nat) (b : Byte) (hlo : lo ≤ a) (ha : a < 2 ^ 64)
    (hm : risingFrom lo m = true) : risingFrom lo (writeByte a b m) = true := by
  induction m generalizing lo with
  | nil => simpa [writeByte, risingFrom, hlo] using ha
  | cons kc m ih =>
    obtain ⟨k, c⟩ := kc
    simp only [risingFrom, Bool.and_eq_true, decide_eq_true_eq] at hm
    simp only [writeByte]
    split
    · simp only [risingFrom, Bool.and_eq_true, decide_eq_true_eq]
      exact ⟨⟨hlo, ha⟩, ⟨by omega, hm.1.2⟩, hm.2⟩
    · split
      · subst_vars
        simp only [risingFrom, Bool.and_eq_true, decide_eq_true_eq]
        exact ⟨⟨hlo, ha⟩, hm.2⟩
      · simp only [risingFrom, Bool.and_eq_true, decide_eq_true_eq]
        exact ⟨hm.1, ih (k + 1) (by omega) hm.2⟩

/-- Writing one byte keeps the canonical form. -/
theorem wf_writeByte (m : List Host.Cell) (a : Nat) (b : Byte) (ha : a < 2 ^ 64) (hm : Memory.wf m = true) :
    Memory.wf (writeByte a b m) = true :=
  risingFrom_writeByte m a 0 b (Nat.zero_le a) ha hm

/-- Writing several bytes keeps the canonical form. -/
theorem wf_writeBytes (bs : List Byte) (m : List Host.Cell) (a : Nat) (ha : a + bs.length ≤ 2 ^ 64)
    (hm : Memory.wf m = true) : Memory.wf (writeBytes a bs m) = true := by
  induction bs generalizing m a with
  | nil => exact hm
  | cons b bs ih =>
    simp only [List.length_cons] at ha
    exact ih (writeByte a b m) (a + 1) (by omega) (wf_writeByte m a b (by omega) hm)

/-- Bytes below those written read as before. -/
theorem readByte_writeBytes_below (bs : List Byte) (m : List Host.Cell) (a a' : Nat) (h : a' < a)
    (ha : a + bs.length ≤ 2 ^ 64) (hm : Memory.wf m = true) : readByte (writeBytes a bs m) a' = readByte m a' := by
  induction bs generalizing m a with
  | nil => rfl
  | cons b bs ih =>
    simp only [List.length_cons] at ha
    rw [writeBytes, ih (writeByte a b m) (a + 1) (by omega) (by omega) (wf_writeByte m a b (by omega) hm),
      readByte_writeByte m a a' b 0 hm, if_neg (by omega)]

/-- The text right after reset is in canonical form. -/
theorem wf_reset : Memory.wf State.reset.text = true := rfl

/-- The bytes a read gives are as many as were asked for. -/
theorem readBytes_length {text : List Host.Cell} {a n : Nat} {bs : List Byte} (h : readBytes text a n = .bytes bs) :
    bs.length = n := by
  induction n generalizing a bs with
  | zero => simp only [readBytes, Fetched.bytes.injEq] at h; simp [← h]
  | succ n ih =>
    simp only [readBytes] at h
    split at h
    · cases h
    · split at h
      · rename_i hb
        simp only [Fetched.bytes.injEq] at h
        simp [← h, ih hb]
      · rename_i hne
        exact absurd h (hne bs)

/-- Bytes written are read back. -/
theorem readBytes_writeBytes (bs : List Byte) (m : List Host.Cell) (a : Nat) (ha : a + bs.length ≤ 2 ^ 64)
    (hm : Memory.wf m = true) : readBytes (writeBytes a bs m) a bs.length = .bytes bs := by
  induction bs generalizing m a with
  | nil => rfl
  | cons b bs ih =>
    simp only [List.length_cons] at ha ⊢
    have hw := wf_writeByte m a b (by omega) hm
    have hb : readByte (writeBytes (a + 1) bs (writeByte a b m)) a = some b := by
      rw [readByte_writeBytes_below bs _ (a + 1) a (by omega) (by omega) hw, readByte_writeByte m a a b 0 hm, if_pos rfl]
    simp only [writeBytes, readBytes, hb, ih (writeByte a b m) (a + 1) (by omega) hw]

end Sys2Proof.Machine
end

