-- ==== Sys2Proof/Laws/State.lean ====
section
/-! SUPPORT. One lemma per field per named update of the state, so that no proof unfolds a record update. -/

namespace Sys2Proof.Machine

@[simp] theorem State.setFpsr_fpsr (s : State) (f : Fpsr) :
    (s.setFpsr f).fpsr = f := rfl

@[simp] theorem State.setFpsr_x (s : State) (f : Fpsr) :
    (s.setFpsr f).x = s.x := rfl

@[simp] theorem State.setFpsr_pc (s : State) (f : Fpsr) :
    (s.setFpsr f).pc = s.pc := rfl

@[simp] theorem State.setFpsr_ctx (s : State) (f : Fpsr) :
    (s.setFpsr f).ctx = s.ctx := rfl

@[simp] theorem State.setFpsr_pstateNzcv (s : State) (f : Fpsr) :
    (s.setFpsr f).pstateNzcv = s.pstateNzcv := rfl

@[simp] theorem State.setFpsr_text (s : State) (f : Fpsr) :
    (s.setFpsr f).text = s.text := rfl

@[simp] theorem State.setFpsr_inputs (s : State) (f : Fpsr) :
    (s.setFpsr f).inputs = s.inputs := rfl

@[simp] theorem State.setFpsr_draws (s : State) (f : Fpsr) :
    (s.setFpsr f).draws = s.draws := rfl

@[simp] theorem State.setPstate_fpsr (s : State) (n : BitVec 4) :
    (s.setPstate n).fpsr = s.fpsr := rfl

@[simp] theorem State.setPstate_x (s : State) (n : BitVec 4) :
    (s.setPstate n).x = s.x := rfl

@[simp] theorem State.setPstate_pc (s : State) (n : BitVec 4) :
    (s.setPstate n).pc = s.pc := rfl

@[simp] theorem State.setPstate_ctx (s : State) (n : BitVec 4) :
    (s.setPstate n).ctx = s.ctx := rfl

@[simp] theorem State.setPstate_pstateNzcv (s : State) (n : BitVec 4) :
    (s.setPstate n).pstateNzcv = n := rfl

@[simp] theorem State.setPstate_text (s : State) (n : BitVec 4) :
    (s.setPstate n).text = s.text := rfl

@[simp] theorem State.setPstate_inputs (s : State) (n : BitVec 4) :
    (s.setPstate n).inputs = s.inputs := rfl

@[simp] theorem State.setPstate_draws (s : State) (n : BitVec 4) :
    (s.setPstate n).draws = s.draws := rfl

@[simp] theorem State.advancePc_fpsr (s : State) :
    (s.advancePc).fpsr = s.fpsr := rfl

@[simp] theorem State.advancePc_x (s : State) :
    (s.advancePc).x = s.x := rfl

@[simp] theorem State.advancePc_pc (s : State) :
    (s.advancePc).pc = s.pc + 4#64 := rfl

@[simp] theorem State.advancePc_ctx (s : State) :
    (s.advancePc).ctx = s.ctx := rfl

@[simp] theorem State.advancePc_pstateNzcv (s : State) :
    (s.advancePc).pstateNzcv = s.pstateNzcv := rfl

@[simp] theorem State.advancePc_text (s : State) :
    (s.advancePc).text = s.text := rfl

@[simp] theorem State.advancePc_inputs (s : State) :
    (s.advancePc).inputs = s.inputs := rfl

@[simp] theorem State.advancePc_draws (s : State) :
    (s.advancePc).draws = s.draws := rfl

@[simp] theorem State.takeDraw_fpsr (s : State) :
    (s.takeDraw).fpsr = s.fpsr := rfl

@[simp] theorem State.takeDraw_x (s : State) :
    (s.takeDraw).x = s.x := rfl

@[simp] theorem State.takeDraw_pc (s : State) :
    (s.takeDraw).pc = s.pc := rfl

@[simp] theorem State.takeDraw_ctx (s : State) :
    (s.takeDraw).ctx = s.ctx := rfl

@[simp] theorem State.takeDraw_pstateNzcv (s : State) :
    (s.takeDraw).pstateNzcv = s.pstateNzcv := rfl

@[simp] theorem State.takeDraw_text (s : State) :
    (s.takeDraw).text = s.text := rfl

@[simp] theorem State.takeDraw_inputs (s : State) :
    (s.takeDraw).inputs = s.inputs := rfl

@[simp] theorem State.takeDraw_draws (s : State) :
    (s.takeDraw).draws = s.draws + 1 := rfl

@[simp] theorem State.writeFpsr_fpsr (s : State) (v : Word) :
    (s.writeFpsr v).fpsr = Fpsr.written Config.params v := rfl

@[simp] theorem State.writeFpsr_x (s : State) (v : Word) :
    (s.writeFpsr v).x = s.x := rfl

@[simp] theorem State.writeFpsr_pc (s : State) (v : Word) :
    (s.writeFpsr v).pc = s.pc := rfl

@[simp] theorem State.writeFpsr_ctx (s : State) (v : Word) :
    (s.writeFpsr v).ctx = s.ctx := rfl

@[simp] theorem State.writeFpsr_pstateNzcv (s : State) (v : Word) :
    (s.writeFpsr v).pstateNzcv = s.pstateNzcv := rfl

@[simp] theorem State.writeFpsr_text (s : State) (v : Word) :
    (s.writeFpsr v).text = s.text := rfl

@[simp] theorem State.writeFpsr_inputs (s : State) (v : Word) :
    (s.writeFpsr v).inputs = s.inputs := rfl

@[simp] theorem State.writeFpsr_draws (s : State) (v : Word) :
    (s.writeFpsr v).draws = s.draws := rfl

@[simp] theorem State.fpscrWriteMapped_fpsr (s : State) (v : Word) :
    (s.fpscrWriteMapped v).fpsr = s.fpsr.fpscrWrite Config.params v := rfl

@[simp] theorem State.fpscrWriteMapped_x (s : State) (v : Word) :
    (s.fpscrWriteMapped v).x = s.x := rfl

@[simp] theorem State.fpscrWriteMapped_pc (s : State) (v : Word) :
    (s.fpscrWriteMapped v).pc = s.pc := rfl

@[simp] theorem State.fpscrWriteMapped_ctx (s : State) (v : Word) :
    (s.fpscrWriteMapped v).ctx = s.ctx := rfl

@[simp] theorem State.fpscrWriteMapped_pstateNzcv (s : State) (v : Word) :
    (s.fpscrWriteMapped v).pstateNzcv = s.pstateNzcv := rfl

@[simp] theorem State.fpscrWriteMapped_text (s : State) (v : Word) :
    (s.fpscrWriteMapped v).text = s.text := rfl

@[simp] theorem State.fpscrWriteMapped_inputs (s : State) (v : Word) :
    (s.fpscrWriteMapped v).inputs = s.inputs := rfl

@[simp] theorem State.fpscrWriteMapped_draws (s : State) (v : Word) :
    (s.fpscrWriteMapped v).draws = s.draws := rfl

@[simp] theorem State.resetEvent_fpsr (s : State) :
    (s.resetEvent).fpsr = Fpsr.afterReset := rfl

@[simp] theorem State.resetEvent_x (s : State) :
    (s.resetEvent).x = State.reset.x := rfl

@[simp] theorem State.resetEvent_pc (s : State) :
    (s.resetEvent).pc = State.reset.pc := rfl

@[simp] theorem State.resetEvent_ctx (s : State) :
    (s.resetEvent).ctx = s.ctx := rfl

@[simp] theorem State.resetEvent_pstateNzcv (s : State) :
    (s.resetEvent).pstateNzcv = State.reset.pstateNzcv := rfl

@[simp] theorem State.resetEvent_text (s : State) :
    (s.resetEvent).text = s.text := rfl

@[simp] theorem State.resetEvent_inputs (s : State) :
    (s.resetEvent).inputs = s.inputs := rfl

@[simp] theorem State.resetEvent_draws (s : State) :
    (s.resetEvent).draws = s.draws := rfl

@[simp] theorem State.writeX_fpsr (s : State) (t : Fin 32) (v : Word) :
    (s.writeX t v).fpsr = s.fpsr := by
  unfold State.writeX; split <;> rfl

@[simp] theorem State.writeX_pc (s : State) (t : Fin 32) (v : Word) :
    (s.writeX t v).pc = s.pc := by
  unfold State.writeX; split <;> rfl

@[simp] theorem State.writeX_ctx (s : State) (t : Fin 32) (v : Word) :
    (s.writeX t v).ctx = s.ctx := by
  unfold State.writeX; split <;> rfl

@[simp] theorem State.writeX_pstateNzcv (s : State) (t : Fin 32) (v : Word) :
    (s.writeX t v).pstateNzcv = s.pstateNzcv := by
  unfold State.writeX; split <;> rfl

@[simp] theorem State.writeX_text (s : State) (t : Fin 32) (v : Word) :
    (s.writeX t v).text = s.text := by
  unfold State.writeX; split <;> rfl

@[simp] theorem State.writeX_inputs (s : State) (t : Fin 32) (v : Word) :
    (s.writeX t v).inputs = s.inputs := by
  unfold State.writeX; split <;> rfl

@[simp] theorem State.writeX_draws (s : State) (t : Fin 32) (v : Word) :
    (s.writeX t v).draws = s.draws := by
  unfold State.writeX; split <;> rfl

/-- The zero register discards what is written to it (R100). -/
@[simp] theorem State.writeX_zr (s : State) (v : Word) : s.writeX 31 v = s := rfl

/-- The zero register reads as 0 (R100). -/
@[simp] theorem State.readX_zr (s : State) : s.readX 31 = 0#64 := rfl

@[simp] theorem State.takeInput_fpsr (s : State) : s.takeInput.fpsr = s.fpsr := by
  unfold State.takeInput; split <;> rfl

@[simp] theorem State.takeInput_x (s : State) : s.takeInput.x = s.x := by
  unfold State.takeInput; split <;> rfl

@[simp] theorem State.takeInput_pc (s : State) : s.takeInput.pc = s.pc := by
  unfold State.takeInput; split <;> rfl

@[simp] theorem State.takeInput_pstateNzcv (s : State) : s.takeInput.pstateNzcv = s.pstateNzcv := by
  unfold State.takeInput; split <;> rfl

@[simp] theorem State.takeInput_text (s : State) : s.takeInput.text = s.text := by
  unfold State.takeInput; split <;> rfl

@[simp] theorem State.takeInput_draws (s : State) : s.takeInput.draws = s.draws := by
  unfold State.takeInput; split <;> rfl

/-- Reading a register depends on the x registers alone. -/
theorem State.readX_congr {s u : State} (h : u.x = s.x) (t : Fin 32) : u.readX t = s.readX t := by
  simp only [State.readX, h]

/-- A register other than the zero register reads what was written to it. -/
theorem State.readX_writeX_same (s : State) (t : Fin 32) (v : Word) (ht : t ≠ 31) :
    (s.writeX t v).readX t = v := by
  have h : t.val < 31 := by
    have := t.isLt
    have hv : t.val ≠ 31 := fun e => ht (Fin.ext e)
    omega
  simp [State.readX, State.writeX, h]

/-- Writing one register leaves the reading of every other. -/
theorem State.readX_writeX_ne (s : State) (t t' : Fin 32) (v : Word) (h : t' ≠ t) :
    (s.writeX t v).readX t' = s.readX t' := by
  have hv : t.val ≠ t'.val := fun e => h (Fin.ext e.symm)
  unfold State.readX State.writeX
  split
  · split
    · simp [Vector.getElem_set_ne _ _ hv]
    · rfl
  · rfl

end Sys2Proof.Machine
end

