-- ==== Sys2Proof/Laws/Ops.lean ====
section
/-! SUPPORT. One lemma per shared operation, saying once everything it can do. -/

namespace Sys2Proof.Machine

/-! ### Bits of the masks and of the updates -/

/-- A bit is in `FIELD_MASK` exactly when a field present in the implementation stands there. -/
theorem getLsbD_fieldMask (p : Config.Params) (i : Nat) :
    (fieldMask p).getLsbD i = true ↔ ∃ f : NamedField, f.present p = true ∧ f.bit = i := by
  have key : ∀ b : Bool, ∀ i : Fin 64, (qcMask ||| cumMask ||| (if b then nzcvMask else 0#64)).getLsbD i = true ↔
      ∃ f ∈ [NamedField.n, .z, .c, .v, .qc, .idc, .ixc, .ufc, .ofc, .dzc, .ioc],
        (f.cumulative || b) = true ∧ f.bit = i.val := by decide
  constructor
  · intro h
    have hi : i < 64 := BitVec.lt_of_getLsbD h
    obtain ⟨f, -, hf⟩ := (key p.haveAArch32Fp ⟨i, hi⟩).1 h
    exact ⟨f, hf⟩
  · rintro ⟨f, hp, rfl⟩
    have hi : f.bit < 64 := by cases f <;> decide
    exact (key p.haveAArch32Fp ⟨f.bit, hi⟩).2 ⟨f, by cases f <;> decide, hp, rfl⟩

/-- A field of the implementation stands at a storage bit. -/
theorem implMask_of_present {p : Config.Params} {f : NamedField} (h : f.present p = true) :
    (implMask p).getLsbD f.bit = true := by
  have : (fieldMask p).getLsbD f.bit = true := (getLsbD_fieldMask p f.bit).2 ⟨f, h, rfl⟩
  simp [implMask, this]

/-- `SetBit(b)` sets bit `b` and leaves every other. -/
theorem Fpsr.setBit_val_getLsbD (f : Fpsr) (b i : Nat) (hb : b < 64) :
    (f.setBit b).val.getLsbD i = (f.val.getLsbD i || decide (i = b)) := by
  rw [Fpsr.setBit, BitVec.getLsbD_or, BitVec.getLsbD_shiftLeft]
  by_cases h : i = b
  · subst h; simp [hb]
  · by_cases hlt : i < b
    · simp [h, hlt]
    · have : i - b ≠ 0 := by omega
      simp [h, this]

/-- `SetBit(b)` makes bit `b` known and leaves every other. -/
theorem Fpsr.setBit_known_getLsbD (f : Fpsr) (b i : Nat) (hb : b < 64) :
    (f.setBit b).known.getLsbD i = (f.known.getLsbD i || decide (i = b)) := by
  rw [Fpsr.setBit, BitVec.getLsbD_or, BitVec.getLsbD_shiftLeft]
  by_cases h : i = b
  · subst h; simp [hb]
  · by_cases hlt : i < b
    · simp [h, hlt]
    · have : i - b ≠ 0 := by omega
      simp [h, this]

/-- The cumulative bit of an exception is a cumulative named field (R123, R127). -/
theorem FpExc.bit_cumulative (e : FpExc) : ∃ g : NamedField, g.cumulative = true ∧ g.bit = e.bit := by
  cases e
  · exact ⟨.ioc, rfl, rfl⟩
  · exact ⟨.dzc, rfl, rfl⟩
  · exact ⟨.ofc, rfl, rfl⟩
  · exact ⟨.ufc, rfl, rfl⟩
  · exact ⟨.ixc, rfl, rfl⟩
  · exact ⟨.idc, rfl, rfl⟩

/-- One turn of R121's loop, bit by bit. -/
theorem Fpsr.setIf_getLsbD (E : ExcSet) (f : Fpsr) (e : FpExc) (i : Nat) :
    (if E.has e then f.setBit e.bit else f).val.getLsbD i = (f.val.getLsbD i || (E.has e && decide (i = e.bit))) ∧
      (if E.has e then f.setBit e.bit else f).known.getLsbD i =
        (f.known.getLsbD i || (E.has e && decide (i = e.bit))) := by
  have hb : e.bit < 64 := by cases e <;> decide
  split <;> simp_all [Fpsr.setBit_val_getLsbD, Fpsr.setBit_known_getLsbD]

/-- R121's loop sets the bits of the exceptions in the set and leaves every other. -/
theorem Fpsr.setExceptions_val_getLsbD (E : ExcSet) (f : Fpsr) (i : Nat) :
    (f.setExceptions E).val.getLsbD i = (f.val.getLsbD i || FpExc.all.any fun e => E.has e && decide (i = e.bit)) := by
  simp only [Fpsr.setExceptions, FpExc.all, List.foldl, Fpsr.setIf_getLsbD, List.any, Bool.or_assoc, Bool.or_false]

/-- R121's loop makes the bits of the exceptions in the set known and leaves every other. -/
theorem Fpsr.setExceptions_known_getLsbD (E : ExcSet) (f : Fpsr) (i : Nat) :
    (f.setExceptions E).known.getLsbD i =
      (f.known.getLsbD i || FpExc.all.any fun e => E.has e && decide (i = e.bit)) := by
  simp only [Fpsr.setExceptions, FpExc.all, List.foldl, Fpsr.setIf_getLsbD, List.any, Bool.or_assoc, Bool.or_false]

/-- `Sat` sets bit 27 and leaves every other. -/
theorem Fpsr.setQc_getLsbD (f : Fpsr) (i : Nat) :
    f.setQc.val.getLsbD i = (f.val.getLsbD i || decide (i = 27)) ∧
      f.setQc.known.getLsbD i = (f.known.getLsbD i || decide (i = 27)) :=
  ⟨Fpsr.setBit_val_getLsbD f 27 i (by decide), Fpsr.setBit_known_getLsbD f 27 i (by decide)⟩

/-- A comparison's flags leave every bit outside [31:28]. -/
theorem Fpsr.setNzcv_getLsbD_other (nzcv : BitVec 4) (f : Fpsr) (i : Nat) (h : ¬ (28 ≤ i ∧ i ≤ 31)) :
    (f.setNzcv nzcv).val.getLsbD i = f.val.getLsbD i ∧ (f.setNzcv nzcv).known.getLsbD i = f.known.getLsbD i := by
  have mask : ∀ i : Fin 64, nzcvMask.getLsbD i.val = decide (28 ≤ i.val ∧ i.val ≤ 31) := by decide
  have flags : ∀ (n : BitVec 4) (i : Fin 64), ¬ (28 ≤ i.val ∧ i.val ≤ 31) →
      (n.setWidth 64 <<< 28).getLsbD i.val = false := by decide
  by_cases hi : i < 64
  · have a := mask ⟨i, hi⟩
    have b := flags nzcv ⟨i, hi⟩ h
    simp only [h, decide_false] at a b
    simp only [Fpsr.setNzcv, BitVec.getLsbD_or, BitVec.getLsbD_and, BitVec.getLsbD_not, a, b, hi]
    simp
  · simp [BitVec.getLsbD_of_ge _ i (Nat.le_of_not_lt hi)]

/-- What `ReadFPSR()` gives, bit by bit (R98). -/
theorem Fpsr.observe_getLsbD (p : Config.Params) (d : Word) (f : Fpsr) (i : Nat) :
    (f.observe p d).getLsbD i =
      ((implMask p).getLsbD i && (if f.known.getLsbD i then f.val.getLsbD i else d.getLsbD i)) := by
  by_cases hi : i < 64
  · rw [Fpsr.observe]
    simp only [BitVec.getLsbD_and, BitVec.getLsbD_or, BitVec.getLsbD_not, hi, decide_true, Bool.true_and]
    cases f.known.getLsbD i <;> simp [Bool.and_comm]
  · simp [BitVec.getLsbD_of_ge _ i (Nat.le_of_not_lt hi)]

/-! ### The access check and the guarded access -/

/-- A guarded access answers a next state exactly when the check allows, and then its effect is the whole change. -/
theorem guardedAccess_next {effect : State → State} {s u : State} :
    guardedAccess effect s = .next u ↔ accessCheck Config.params s.ctx = .allow ∧ u = effect s := by
  unfold guardedAccess
  split <;> rename_i h <;> simp [h, takeTrap, takeUndefined, eq_comm]

/-- A guarded access that the check allows. -/
theorem guardedAccess_allow {effect : State → State} {s : State} (h : accessCheck Config.params s.ctx = .allow) :
    guardedAccess effect s = .next (effect s) :=
  guardedAccess_next.2 ⟨h, rfl⟩

/-- The inversion lemma of exec: an instruction that completes was allowed and had its own effect. -/
theorem exec_next {i : Instr} {s u : State} (h : exec i s = .next u) :
    accessCheck Config.params s.ctx = .allow ∧
      ((∃ t, i = .mrsFpsr t ∧ u = mrsEffect t s) ∨ (∃ t, i = .msrFpsr t ∧ u = msrEffect t s)) := by
  cases i with
  | mrsFpsr t =>
    obtain ⟨ha, hu⟩ := guardedAccess_next.1 (show guardedAccess (mrsEffect t) s = .next u from h)
    exact ⟨ha, .inl ⟨t, rfl, hu⟩⟩
  | msrFpsr t =>
    obtain ⟨ha, hu⟩ := guardedAccess_next.1 (show guardedAccess (msrEffect t) s = .next u from h)
    exact ⟨ha, .inr ⟨t, rfl, hu⟩⟩

/-! ### Fetch, events and the step -/

/-- A fetch that gives bytes was from a pc that may be fetched from, and gives the four bytes that stand there. -/
theorem fetch_bytes {text : List Host.Cell} {pc : Word} {bs : List Byte} (h : fetch text pc = .bytes bs) :
    pc.toNat % 4 = 0 ∧ pc.toNat + 4 ≤ 2 ^ 64 - 1 ∧ readBytes text pc.toNat 4 = .bytes bs := by
  unfold fetch at h
  split at h
  · split at h
    · exact ⟨‹_›, ‹_›, h⟩
    · cases h
  · cases h

/-- An instruction step that completes fetched, decoded and executed an instruction. -/
theorem runInstr_next {s u : State} (h : runInstr s = .next u) :
    ∃ bs i rest, fetch s.text s.pc = .bytes bs ∧ decodeBytes bs = .ok (i, rest) ∧ exec i s = .next u := by
  unfold runInstr at h
  split at h <;> try cases h
  rename_i bs hf
  split at h <;> try cases h
  rename_i i rest hd
  exact ⟨bs, i, rest, hf, hd, h⟩

/-- An event that the machine takes changes FPSR alone, and in one of three ways. -/
theorem applyEvent_next {p : Config.Params} {e : Event} {s u : State} (h : applyEvent p e s = .next u) :
    e.wellFormed p = true ∧
      ((∃ E, e = .fpExc E ∧ E.anyEnabled s.ctx = false ∧ u = s.setFpsr (s.fpsr.setExceptions E)) ∨
        (e = .sat ∧ u = s.setFpsr s.fpsr.setQc) ∨
        (∃ n z c v, e = .a32Cmp n z c v ∧ u = s.setFpsr (s.fpsr.setNzcv (nzcvOf n z c v)))) := by
  unfold applyEvent at h
  split at h
  · rename_i hw
    refine ⟨hw, ?_⟩
    cases e with
    | fpExc E =>
      simp only [fpExcEvent] at h
      split at h
      · cases h
      · rename_i he
        cases h
        exact .inl ⟨E, rfl, by simpa using he, rfl⟩
    | sat => cases h; exact .inr (.inl ⟨rfl, rfl⟩)
    | a32Cmp n z c v => cases h; exact .inr (.inr ⟨n, z, c, v, rfl, rfl⟩)
  · cases h

/-- The inversion lemma of the step: everything a step that answers a next state can have been. -/
theorem step_next {s u : State} (h : step s = .next u) :
    (s.nextAction = .run ∧ ∃ bs i rest, fetch s.text s.pc = .bytes bs ∧ decodeBytes bs = .ok (i, rest) ∧
        exec i s.takeInput = .next u) ∨
      (∃ e, s.nextAction = .update e ∧ applyEvent Config.params e s.takeInput = .next u) ∨
      (∃ n z c v, s.nextAction = .a64Cmp n z c v ∧ u = a64CmpEffect n z c v s.takeInput) ∨
      (s.nextAction = .reset ∧ u = s.takeInput.resetEvent) := by
  unfold step at h
  split at h <;> rename_i ha
  · obtain ⟨bs, i, rest, hf, hd, he⟩ := runInstr_next h
    rw [State.takeInput_text, State.takeInput_pc] at hf
    exact .inl ⟨ha, bs, i, rest, hf, hd, he⟩
  · exact .inr (.inl ⟨_, ha, h⟩)
  · cases h; exact .inr (.inr (.inl ⟨_, _, _, _, ha, rfl⟩))
  · cases h; exact .inr (.inr (.inr ⟨ha, rfl⟩))

end Sys2Proof.Machine
end

