-- ==== Sys2Proof/Laws/PerInstr.lean ====
section
/-! SUPPORT. What holds of every instruction as syntax, one lemma per constructor. -/

namespace Sys2Proof.Laws

/-- R75: the word of an instruction is its row's match value plus the register number. -/
def EncodedWord.Statement : Instr → Prop
  | .mrsFpsr t => (encode (.mrsFpsr t)).toNat = 0xD53B4420 + t.val
  | .msrFpsr t => (encode (.msrFpsr t)).toNat = 0xD51B4420 + t.val

theorem EncodedWord.mrsFpsr (t : Fin 32) : EncodedWord.Statement (.mrsFpsr t) := by
  unfold EncodedWord.Statement; revert t; decide

theorem EncodedWord.msrFpsr (t : Fin 32) : EncodedWord.Statement (.msrFpsr t) := by
  unfold EncodedWord.Statement; revert t; decide

end Sys2Proof.Laws
end

