-- ==== Sys2Proof/Tests/Slice0.lean ====
section
/-! SUPPORT. The model's own tests, their expected results from 95_test_vectors.md or written out from the spec's tables, and a
witness for the hypotheses of every statement. -/

namespace Sys2Proof.Tests

open Sys2Proof Sys2Proof.Machine

/-! ### Helpers -/

/-- Parameters of the vectors: AArch32 floating-point, EL3, no debug priority, RES0 hardwired, traps. -/
def paramsA : Config.Params where
  haveAArch32Fp := true
  haveEl3 := true
  el3TrapPriorityWhenSdd := false
  res0WritableMask := 0#64
  fpTrapsImplemented := true

/-- As `paramsA` with the debug priority. -/
def paramsPrio : Config.Params := { paramsA with el3TrapPriorityWhenSdd := true }

/-- As `paramsA` without AArch32 floating-point. -/
def paramsNoA32 : Config.Params := { paramsA with haveAArch32Fp := false }

/-- As `paramsA` with the RES0 bits [6:5] writable (vector W4). -/
def paramsW : Config.Params := { paramsA with res0WritableMask := 0x60#64 }

/-- As `paramsA` without floating-point traps. -/
def paramsNoTraps : Config.Params := { paramsA with fpTrapsImplemented := false }

/-- The default context of 95_test_vectors.md section 2.2, at a level. -/
def ctxAt (l : EL) : Ctx := { Ctx.atReset with el := l, cpacrFpen := 0b11#2, cptrEl2Fpen := 0b11#2 }

/-- In Debug state with EDSCR.SDD set and EL3's control denying. -/
def debugged (c : Ctx) : Ctx := { c with halted := true, sdd := 1#1, cptrEl3Tfp := 1#1 }

/-- Under HCR_EL2.{E2H,TGE} = '11' with EL2 enabled. -/
def hosted (c : Ctx) : Ctx := { c with el2Enabled := true, e2h := 1#1, tge := 1#1 }

/-- The reset state with a context. -/
def withCtx (c : Ctx) : State := { State.reset with ctx := c }

/-- The reset state with FPSR known. -/
def withFpsr (v : Word) : State := { State.reset with fpsr := { val := v, known := BitVec.allOnes 64 } }

/-- The reset state with one input to come. -/
def withInput (a : Action) : State := { State.reset with inputs := [{ ctx := ctxAt .el3, action := a }] }

/-- The outcome is a next state with a property. -/
def nextWith (o : Host.Outcome State Fault Refusal) (f : State → Bool) : Bool :=
  match o with
  | .next s => f s
  | _ => false

/-- The outcome is this fault. -/
def faultsWith (o : Host.Outcome State Fault Refusal) (f : Fault) : Bool :=
  match o with
  | .fault g => g == f
  | _ => false

/-- The outcome is this refusal. -/
def refusesWith (o : Host.Outcome State Fault Refusal) (r : Refusal) : Bool :=
  match o with
  | .refused q => q == r
  | _ => false

/-! ### Well-formedness -/

/-- R120: `E` is non-empty. -/
theorem test_wf_refuses_empty_exception_set : Event.wellFormed paramsA (.fpExc {}) = false := by decide

/-- R125: no `A32Cmp` without AArch32 floating-point. -/
theorem test_wf_refuses_compare_without_aarch32 : Event.wellFormed paramsNoA32 (.a32Cmp 0 1 1 0) = false := by decide

/-- The machine refuses the ill-formed event by name. -/
theorem test_step_refuses_empty_exception_set :
    refusesWith (step (withInput (.update (.fpExc {})))) (.noSuchEvent (.fpExc {})) = true := by decide

/-- R77: every Rt of both rows is an instruction. -/
theorem test_wf_every_instruction : Instr.all.all Instr.wellFormed = true := by decide

/-! ### Decoding: the words of 95_test_vectors.md section 2.1 -/

/-- Vectors E1 to E8, written out bit by bit from R71: prefix, L, op0, op1, CRn, CRm, op2, Rt. -/
theorem test_decode_written_out :
    decodeWord 0b1101010100_1_11_011_0100_0100_001_00000#32 = .ok (.mrsFpsr 0) ∧
      decodeWord 0b1101010100_1_11_011_0100_0100_001_00101#32 = .ok (.mrsFpsr 5) ∧
      decodeWord 0b1101010100_1_11_011_0100_0100_001_11110#32 = .ok (.mrsFpsr 30) ∧
      decodeWord 0b1101010100_1_11_011_0100_0100_001_11111#32 = .ok (.mrsFpsr 31) ∧
      decodeWord 0b1101010100_0_11_011_0100_0100_001_00000#32 = .ok (.msrFpsr 0) ∧
      decodeWord 0b1101010100_0_11_011_0100_0100_001_00001#32 = .ok (.msrFpsr 1) ∧
      decodeWord 0b1101010100_0_11_011_0100_0100_001_10001#32 = .ok (.msrFpsr 17) ∧
      decodeWord 0b1101010100_0_11_011_0100_0100_001_11111#32 = .ok (.msrFpsr 31) := by decide

/-- Vectors E2 and E7 as bytes in memory, the lowest address first. -/
theorem test_decode_bytes :
    decodeBytes [0x25#8, 0x44#8, 0x3B#8, 0xD5#8, 0xAA#8] = .ok (.mrsFpsr 5, [0xAA#8]) ∧
      decodeBytes [0x31#8, 0x44#8, 0x1B#8, 0xD5#8] = .ok (.msrFpsr 17, []) ∧
      decodeBytes [0x31#8, 0x44#8, 0x1B#8] = .error .truncated := by decide

/-- Vectors E9 to E17 are refused. -/
theorem test_decode_refuses :
    [0xD53B4400#32, 0xD53B4440#32, 0xD53B4520#32, 0xD53B5420#32, 0xD5384420#32, 0xD5334420#32, 0xD57B4420#32, 0x00000000#32,
      0xD503201F#32].all (fun w => decodeWord w == .error (.notInOpcodeTable w)) = true := by decide

/-- R80: both names of the register. -/
theorem test_transcribe :
    transcribe "MRS X5, FPSR" = some (.mrsFpsr 5) ∧ transcribe "MSR S3_3_C4_C4_1, XZR" = some (.msrFpsr 31) := by decide

/-! ### The access check: the vectors of 95_test_vectors.md section 2.2 -/

/-- Vectors A1 to A12, A18, A20. -/
theorem test_access_el0_el1_el2_controls :
    accessCheck paramsA (ctxAt .el0) = .allow ∧
      accessCheck paramsA { ctxAt .el0 with cpacrFpen := 0b01#2 } = .trap .el1 0x07 ∧
      accessCheck paramsA { ctxAt .el0 with cpacrFpen := 0b00#2 } = .trap .el1 0x07 ∧
      accessCheck paramsA { ctxAt .el0 with cpacrFpen := 0b10#2 } = .trap .el1 0x07 ∧
      accessCheck paramsA { ctxAt .el0 with cpacrFpen := 0b01#2, el2Enabled := true, tge := 1#1 } = .trap .el2 0x00 ∧
      accessCheck paramsA { ctxAt .el0 with cpacrFpen := 0b01#2, el2Enabled := true, tge := 1#1, el2AArch32 := true } =
        .trap .el1 0x07 ∧
      accessCheck paramsA { hosted (ctxAt .el0) with cpacrFpen := 0b00#2 } = .allow ∧
      accessCheck paramsA { hosted (ctxAt .el0) with cpacrFpen := 0b00#2, cptrEl2Fpen := 0b01#2 } = .trap .el2 0x07 ∧
      accessCheck paramsA { ctxAt .el0 with el2Enabled := true, e2h := 1#1, cptrEl2Fpen := 0b01#2 } = .allow ∧
      accessCheck paramsA { ctxAt .el0 with el2Enabled := true, e2h := 1#1, cptrEl2Fpen := 0b10#2 } = .trap .el2 0x07 ∧
      accessCheck paramsA { ctxAt .el0 with el2Enabled := true, cptrEl2Tfp := 1#1 } = .trap .el2 0x07 ∧
      accessCheck paramsA { ctxAt .el0 with cptrEl2Tfp := 1#1 } = .allow ∧
      accessCheck paramsA { ctxAt .el0 with cpacrFpen := 0b00#2, el1AArch32 := true } = .allow ∧
      accessCheck paramsA { hosted (ctxAt .el0) with cptrEl2Fpen := 0b10#2 } =
        .trap .el2 0x07 := by decide

/-- Vectors A13 to A17, A19, A21, A22. -/
theorem test_access_el0_el3_control :
    accessCheck paramsA { ctxAt .el0 with cptrEl3Tfp := 1#1 } = .trap .el3 0x07 ∧
      accessCheck { paramsA with haveEl3 := false } { ctxAt .el0 with cptrEl3Tfp := 1#1 } = .allow ∧
      accessCheck paramsA { ctxAt .el0 with cptrEl3Tfp := 1#1, halted := true, sdd := 1#1 } = .undefined ∧
      accessCheck paramsPrio { ctxAt .el0 with cptrEl3Tfp := 1#1, halted := true, sdd := 1#1, cpacrFpen := 0b00#2 } =
        .undefined ∧
      accessCheck paramsA { ctxAt .el0 with cptrEl3Tfp := 1#1, halted := true, sdd := 1#1, cpacrFpen := 0b00#2 } =
        .trap .el1 0x07 ∧
      accessCheck paramsA { ctxAt .el0 with cptrEl3Tfp := 1#1, el3AArch32 := true } = .allow ∧
      accessCheck paramsA { ctxAt .el0 with cptrEl3Tfp := 1#1, halted := true } = .trap .el3 0x07 ∧
      accessCheck paramsA { ctxAt .el0 with cptrEl3Tfp := 1#1, sdd := 1#1 } = .trap .el3 0x07 := by decide

/-- Vectors B2 to B8, B10 to B14. -/
theorem test_access_el1 :
    accessCheck paramsA { ctxAt .el1 with cpacrFpen := 0b01#2 } = .allow ∧
      accessCheck paramsA { ctxAt .el1 with cpacrFpen := 0b00#2 } = .trap .el1 0x07 ∧
      accessCheck paramsA { ctxAt .el1 with cpacrFpen := 0b10#2 } = .trap .el1 0x07 ∧
      accessCheck paramsA { ctxAt .el1 with el2Enabled := true, cptrEl2Tfp := 1#1 } = .trap .el2 0x07 ∧
      accessCheck paramsA { ctxAt .el1 with el2Enabled := true, e2h := 1#1, cptrEl2Tfp := 1#1 } = .allow ∧
      accessCheck paramsA { ctxAt .el1 with el2Enabled := true, e2h := 1#1, cptrEl2Fpen := 0b00#2 } = .trap .el2 0x07 ∧
      accessCheck paramsA { ctxAt .el1 with el2Enabled := true, e2h := 1#1, cptrEl2Fpen := 0b01#2 } = .allow ∧
      accessCheck paramsA { ctxAt .el1 with cptrEl3Tfp := 1#1, halted := true, sdd := 1#1 } = .undefined ∧
      accessCheck paramsA { ctxAt .el1 with cpacrFpen := 0b00#2, el2Enabled := true, cptrEl2Tfp := 1#1, cptrEl3Tfp := 1#1 } = .trap .el1 0x07 ∧
      accessCheck paramsPrio { ctxAt .el1 with cpacrFpen := 0b00#2, cptrEl3Tfp := 1#1, halted := true, sdd := 1#1 } =
        .undefined ∧
      accessCheck paramsA { ctxAt .el1 with el2Enabled := true, el2AArch32 := true, cptrEl2Tfp := 1#1 } = .allow ∧
      accessCheck paramsA { ctxAt .el1 with cpacrFpen := 0b00#2, el2Enabled := true, tge := 1#1 } = .trap .el1 0x07 := by
  decide

/-- Vectors C2 to C11 and D1 to D4. -/
theorem test_access_el2_el3 :
    accessCheck paramsA { ctxAt .el2 with el2Enabled := true, cptrEl2Tfp := 1#1 } = .trap .el2 0x07 ∧
      accessCheck paramsA { ctxAt .el2 with el2Enabled := true, e2h := 1#1, cptrEl2Tfp := 1#1 } = .allow ∧
      accessCheck paramsA { ctxAt .el2 with el2Enabled := true, e2h := 1#1, cptrEl2Fpen := 0b10#2 } = .trap .el2 0x07 ∧
      accessCheck paramsA { ctxAt .el2 with el2Enabled := true, e2h := 1#1, cptrEl2Fpen := 0b01#2 } = .allow ∧
      accessCheck paramsA { ctxAt .el2 with el2Enabled := true, cptrEl3Tfp := 1#1 } = .trap .el3 0x07 ∧
      accessCheck paramsA { ctxAt .el2 with el2Enabled := true, cptrEl3Tfp := 1#1, halted := true, sdd := 1#1 } =
        .undefined ∧
      accessCheck paramsA { ctxAt .el2 with el2Enabled := true, cptrEl2Tfp := 1#1, cptrEl3Tfp := 1#1 } = .trap .el2 0x07 ∧
      accessCheck paramsPrio { debugged (ctxAt .el2) with el2Enabled := true, cptrEl2Tfp := 1#1 } = .undefined ∧
      accessCheck paramsA { ctxAt .el2 with el2Enabled := true, cpacrFpen := 0b00#2 } = .allow ∧
      accessCheck paramsA { ctxAt .el2 with cptrEl2Tfp := 1#1 } = .trap .el2 0x07 ∧
      accessCheck paramsA (ctxAt .el3) = .allow ∧
      accessCheck paramsA { ctxAt .el3 with cptrEl3Tfp := 1#1 } = .trap .el3 0x07 ∧
      accessCheck paramsPrio { ctxAt .el3 with cptrEl3Tfp := 1#1, halted := true, sdd := 1#1 } = .trap .el3 0x07 ∧
      accessCheck paramsA { ctxAt .el3 with cpacrFpen := 0b00#2, cptrEl2Tfp := 1#1, el2Enabled := true } = .allow := by
  decide

/-! ### Reading and writing: section 2.3 -/

/-- Vectors W1 to W4. -/
theorem test_write_masks :
    (Fpsr.written paramsA 0xFFFFFFFFFFFFFFFF#64).val = 0x00000000F800009F#64 ∧
      (Fpsr.written paramsNoA32 0xFFFFFFFFFFFFFFFF#64).val = 0x000000000800009F#64 ∧
      (Fpsr.written paramsA 0xFFFFFFFF07FFFF60#64).val = 0#64 ∧
      (Fpsr.written paramsW 0xFFFFFFFFFFFFFFFF#64).val = 0x00000000F80000FF#64 := by decide

/-- Vectors M1, M3 and M6 with every drawn bit 1, and M4 with every drawn bit 0. -/
theorem test_read_masks :
    Fpsr.observe paramsA 0#64 { val := 0x08000011#64, known := BitVec.allOnes 64 } = 0x0000000008000011#64 ∧
      Fpsr.observe paramsA (BitVec.allOnes 64) Fpsr.afterReset = 0x00000000F800009F#64 ∧
      Fpsr.observe paramsNoA32 (BitVec.allOnes 64) Fpsr.afterReset = 0x000000000800009F#64 ∧
      Fpsr.observe paramsA 0#64 Fpsr.afterReset.setQc = 0x0000000008000000#64 := by decide

/-- Vector M2: MRS XZR leaves every x register and FPSR and moves the pc by 4. -/
theorem test_mrs_xzr :
    nextWith (exec (.mrsFpsr 31) (withFpsr 0x9F#64))
      (fun u => u.x == State.reset.x && u.fpsr == (withFpsr 0x9F#64).fpsr && u.pc == 4#64) = true := by decide

/-- Vector T1: a denied MRS ends in the trap. -/
theorem test_mrs_trap :
    faultsWith (exec (.mrsFpsr 0) (withCtx { ctxAt .el0 with cpacrFpen := 0b01#2 })) (.trap .el1 0x07) = true := by decide

/-- R99: after MSR every bit is known, and the pc is 4 further. -/
theorem test_msr_known :
    nextWith (exec (.msrFpsr 2) State.reset) (fun u => u.fpsr.known == 0xFFFFFFFFFFFFFFFF#64 && u.pc == 4#64) = true := by
  decide

/-- Vector T3's kind, with vector A5's context: MSR XZR does not avoid the check, and the code is 0x00. -/
theorem test_msr_xzr_trap :
    faultsWith (exec (.msrFpsr 31) (withCtx { ctxAt .el0 with cpacrFpen := 0b01#2, el2Enabled := true, tge := 1#1 }))
      (.trap .el2 0x00) = true := by decide

/-! ### Update events: section 2.4 -/

/-- Vectors X6, X8, X9, X11, X15, X17, X19, X20 and X21. -/
theorem test_events :
    (Fpsr.setExceptions { inputDenormal := true } ⟨0#64, BitVec.allOnes 64⟩).val = 0x80#64 ∧
      (Fpsr.setExceptions { overflow := true, inexact := true } ⟨0#64, BitVec.allOnes 64⟩).val = 0x14#64 ∧
      (Fpsr.setExceptions ⟨true, true, true, true, true, true⟩ ⟨0#64, BitVec.allOnes 64⟩).val = 0x9F#64 ∧
      (Fpsr.setExceptions { underflow := true } ⟨0xF8000000#64, BitVec.allOnes 64⟩).val = 0xF8000008#64 ∧
      (Fpsr.setQc ⟨0#64, BitVec.allOnes 64⟩).val = 0x08000000#64 ∧
      (Fpsr.setNzcv (nzcvOf 1 0 0 0) ⟨0x6000001F#64, BitVec.allOnes 64⟩).val = 0x8000001F#64 ∧
      (Fpsr.setNzcv (nzcvOf 0 0 0 0) ⟨0xF8000000#64, BitVec.allOnes 64⟩).val = 0x08000000#64 ∧
      Fpsr.setExceptions { inexact := true } Fpsr.afterReset = ⟨0x10#64, 0x10#64⟩ := by decide

/-- Vectors X12 and X14: the enable of an exception that occurred, and of one that did not. -/
theorem test_event_enables :
    refusesWith (applyEvent paramsA (.fpExc { divByZero := true }) (withCtx { ctxAt .el0 with fpcrDze := 1#1 }))
        (.trappedFPException { divByZero := true }) = true ∧
      nextWith (applyEvent paramsA (.fpExc { inexact := true }) (withCtx { ctxAt .el0 with fpcrOfe := 1#1 }))
        (fun u => u.fpsr.val == 0x10#64) = true := by decide

/-! ### The step -/

/-- The first instruction after reset: MRS X5, FPSR placed at the pc runs. -/
theorem test_first_instruction :
    nextWith (step (State.reset.withFetchWord 32 0xD53B4425)) (fun u => u.pc == 4#64 && u.draws == 1) = true := by decide

/-- Log entry 7: from reset with nothing placed the fetch finds no text. -/
theorem test_no_text : faultsWith (step State.reset) (.noProgramText 0) = true := by decide

/-! ### Witnesses: for the hypotheses of every statement, a state and operands that meet them -/

/-- Access is granted at each level, whatever the parameters. -/
theorem witness_granted :
    accessGranted Config.params (ctxAt .el0) ∧ accessGranted Config.params (ctxAt .el1) ∧
      accessGranted Config.params (ctxAt .el2) ∧ accessGranted Config.params (ctxAt .el3) := by
  refine ⟨⟨.inl rfl, ?_, ?_⟩, ⟨rfl, ?_, ?_⟩, ⟨fun _ => rfl, ?_, ?_⟩, rfl⟩
  · intro h; cases h
  · intro _ _; rfl
  · intro h; cases h
  · intro _ _; rfl
  · intro h; cases h
  · intro _ _; rfl

/-- Access is not granted at EL0 with CPACR_EL1.FPEN = '01', whatever the parameters. -/
theorem witness_notGranted : ¬ accessGranted Config.params { ctxAt .el0 with cpacrFpen := 0b01#2 } := by
  rintro ⟨h | h | ⟨h, -⟩, -⟩
  · exact absurd h (by decide)
  · cases h
  · cases h

/-- MrsCompletesWithFpsr, MsrCompletesWithRegister, ZeroRegisterOperand, WrittenValueReadsBack: register numbers 30 and 31. -/
theorem witness_completion :
    accessGranted Config.params (withCtx (ctxAt .el0)).ctx ∧ accessGranted Config.params State.reset.ctx ∧
      (30 : Fin 32) ≠ 31 ∧ ¬ accessGranted Config.params (withCtx { ctxAt .el0 with cpacrFpen := 0b01#2 }).ctx :=
  ⟨witness_granted.1, rfl, by decide, witness_notGranted⟩

/-- MrsFrame, MsrFrame: both instructions answer a next state after reset. -/
theorem witness_frames :
    (∃ u, exec (.mrsFpsr 30) State.reset = .next u) ∧ (∃ u, exec (.msrFpsr 31) State.reset = .next u) :=
  ⟨⟨_, rfl⟩, ⟨_, rfl⟩⟩

/-- MaskValues: RES0 hardwired. -/
theorem witness_MaskValues : paramsA.res0WritableMask = 0#64 := rfl

/-- BitAssignment: the ends of the RES0 ranges are below 64. -/
theorem witness_BitAssignment :
    NamedField.n.bit = NamedField.n.bit ∧
      [63, 32, 26, 8, 6, 5, 31, 28].all (fun i => decide (i < 64) && (res0Mask paramsNoA32).getLsbD i) = true := by decide

/-- Res0BitBehaviour: bit 63 hardwired, bits 6 and 5 writable, and an event that is taken. -/
theorem witness_Res0BitBehaviour :
    (res0Mask paramsW).getLsbD 63 = true ∧ paramsW.res0WritableMask.getLsbD 63 = false ∧
      (res0Mask paramsW).getLsbD 6 = true ∧ paramsW.res0WritableMask.getLsbD 6 = true ∧
      (res0Mask paramsW).getLsbD 5 = true ∧ paramsW.res0WritableMask.getLsbD 5 = true ∧
      nextWith (applyEvent paramsW .sat State.reset) (fun _ => true) = true := by decide

/-- AccessCheckAtEl0 to AccessCheckAtEl3: each level, and both values of TFP at EL3. -/
theorem witness_levels :
    (ctxAt .el0).el = .el0 ∧ (ctxAt .el1).el = .el1 ∧ (ctxAt .el2).el = .el2 ∧ (ctxAt .el3).el = .el3 ∧
      (ctxAt .el3).cptrEl3Tfp = 0#1 ∧ { ctxAt .el3 with cptrEl3Tfp := 1#1 }.cptrEl3Tfp = 1#1 := by decide

/-- PreDecidesFirst, DebugPriorityParameter (first half, both values of the parameter). -/
theorem witness_debug :
    preUndefined paramsPrio { ctxAt .el0 with halted := true, sdd := 1#1, cptrEl3Tfp := 1#1 } = true ∧
      preUndefined paramsPrio { ctxAt .el3 with halted := true, sdd := 1#1, cptrEl3Tfp := 1#1 } = true ∧
      paramsPrio.el3TrapPriorityWhenSdd = true ∧ paramsA.el3TrapPriorityWhenSdd = false ∧
      (debugged (ctxAt .el2)).el ≠ .el3 ∧ (debugged (ctxAt .el2)).halted = true ∧ (debugged (ctxAt .el2)).sdd = 1#1 ∧
      paramsA.haveEl3 = true ∧ (debugged (ctxAt .el2)).el3AArch32 = false ∧ (debugged (ctxAt .el2)).cptrEl3Tfp = 1#1 := by decide

/-- DebugPriorityParameter (second half), NoDebugEffectOutsideDebugState, LowestLevelControlDecides. -/
theorem witness_noDebug :
    normalExecution (ctxAt .el0) ∧ (ctxAt .el0).el ≠ .el3 ∧ preUndefined paramsA (ctxAt .el0) = false ∧
      ¬ ((ctxAt .el0).el ≠ .el3 ∧ (ctxAt .el0).halted = true ∧ (ctxAt .el0).sdd = 1#1 ∧ paramsA.haveEl3 = true ∧
        (ctxAt .el0).el3AArch32 = false ∧ (ctxAt .el0).cptrEl3Tfp = 1#1) := by decide

/-- AccessCheckIndependence: contexts that agree on an arm's fields and differ elsewhere. -/
theorem witness_AccessCheckIndependence :
    (ctxAt .el3).cptrEl3Tfp = { ctxAt .el3 with halted := true }.cptrEl3Tfp ∧
      (ctxAt .el2).agreeAtEl2 { ctxAt .el2 with cpacrFpen := 0#2 } ∧
      (ctxAt .el1).agreeAtEl1 { ctxAt .el1 with tge := 1#1 } ∧
      (ctxAt .el0).agreeAtEl0 { ctxAt .el0 with fpcrIoe := 1#1 } := by
  simp [Ctx.agreeAtEl2, Ctx.agreeAtEl1, Ctx.agreeAtEl0]

/-- DisabledLevelsDoNotTrap: EL2 off, EL2 in AArch32, no EL3, EL3 in AArch32. -/
theorem witness_DisabledLevelsDoNotTrap :
    (ctxAt .el0).el2Enabled = false ∧ { ctxAt .el1 with el2AArch32 := true }.el2AArch32 = true ∧
      { paramsA with haveEl3 := false }.haveEl3 = false ∧ { ctxAt .el2 with el3AArch32 := true }.el3AArch32 = true ∧
      (ctxAt .el2).el ≠ .el3 := by decide

/-- BothInstructionsStopAlike: the same context, with a fault and with a next state. -/
theorem witness_BothInstructionsStopAlike :
    State.reset.ctx = (withFpsr 1#64).ctx ∧ (∃ u, exec (.mrsFpsr 0) State.reset = .next u) ∧
      exec (.mrsFpsr 0) (withCtx { ctxAt .el0 with cpacrFpen := 0b01#2 }) = .fault (.trap .el1 0x07) :=
  ⟨rfl, ⟨_, rfl⟩, rfl⟩

/-- ReadsHaveNoSideEffect: two reads in a row with FPSR known, and a write. -/
theorem witness_ReadsHaveNoSideEffect :
    (∃ u w, exec (.mrsFpsr 0) (withFpsr 1#64) = .next u ∧ exec (.mrsFpsr 1) u = .next w) ∧
      (withFpsr 1#64).fpsr.known.getLsbD 0 = true ∧ (∃ u, exec (.msrFpsr 0) State.reset = .next u) :=
  ⟨⟨_, _, rfl, rfl⟩, by decide, ⟨_, rfl⟩⟩

/-- WriteFpsrBits, FpscrViewFunctions, FpscrSharesStorage: fields present, and RES0 bits. -/
theorem witness_fields :
    NamedField.n.present paramsA = true ∧ NamedField.qc.present paramsNoA32 = true ∧
      (implMask paramsA).getLsbD 63 = false ∧ (res0Mask paramsA).getLsbD 63 = true := by decide

/-- UntrappedExceptionsSetTheirBits: one exception with every enable clear. -/
theorem witness_UntrappedExceptionsSetTheirBits :
    ExcSet.has { inputDenormal := true } .inputDenormal = true ∧
      ∀ e, ExcSet.has { inputDenormal := true } e = true → FpExc.enable State.reset.ctx e = 0#1 :=
  ⟨rfl, fun e _ => by cases e <;> rfl⟩

/-- EnabledExceptionIsTrapped: an enabled exception, and both values of FP_TRAPS_IMPLEMENTED. -/
theorem witness_EnabledExceptionIsTrapped :
    ExcSet.has { divByZero := true } .divByZero = true ∧
      FpExc.enable (withCtx { ctxAt .el0 with fpcrDze := 1#1 }).ctx .divByZero = 1#1 ∧
      paramsNoTraps.fpTrapsImplemented = false ∧ paramsA.fpTrapsImplemented = true := by decide

/-- AArch32CompareWritesFlags: with and without AArch32 floating-point. -/
theorem witness_AArch32CompareWritesFlags : paramsA.haveAArch32Fp = true ∧ paramsNoA32.haveAArch32Fp = false := by decide

/-- EventsChangeFpsrAlone: an event that is taken, and another context with the same enables. -/
theorem witness_EventsChangeFpsrAlone :
    (∃ u, applyEvent paramsA .sat State.reset = .next u) ∧
      ∀ x, FpExc.enable (ctxAt .el0) x = FpExc.enable State.reset.ctx x :=
  ⟨⟨_, rfl⟩, fun x => by cases x <;> rfl⟩

/-- AArch64CompareSetsPstate, ResetLeavesFpsrUnknown, ResetEventChoices, StepTakesOneInput: each kind of input. -/
theorem witness_actions :
    (withInput (.a64Cmp 0 1 1 0)).nextAction = .a64Cmp 0 1 1 0 ∧ (withInput .reset).nextAction = .reset ∧
      (withInput (.update .sat)).nextAction = .update .sat ∧ State.reset.inputs = [] ∧
      (withInput .run).inputs = [{ ctx := ctxAt .el3, action := .run }] := by decide

/-- A state whose next step is a saturation does not replace FPSR. -/
theorem sat_not_replacesFpsr : ¬ replacesFpsr (withInput (.update .sat)) := by
  rintro (h | ⟨h, -⟩) <;> cases h

/-- ConditionFlagWriters, CumulativeBitsNeverClear: a saturation is taken and replaces nothing, and so is a run of one step. -/
theorem witness_quiet :
    (∃ u, step (withInput (.update .sat)) = .next u ∧ QuietRun (withInput (.update .sat)) u) ∧
      (∀ n z c v, (withInput (.update .sat)).nextAction ≠ .update (.a32Cmp n z c v)) ∧ NamedField.qc.cumulative = true :=
  ⟨⟨_, rfl, .step (.refl _) sat_not_replacesFpsr rfl⟩, (fun _ _ _ _ h => nomatch h), rfl⟩

/-- CumulativeBitsNeverClear: a bit that is a known 1 at the start of a quiet run. -/
theorem witness_CumulativeBitsNeverClear :
    QuietRun (withFpsr 1#64) (withFpsr 1#64) ∧ (withFpsr 1#64).fpsr.val.getLsbD NamedField.ioc.bit = true ∧
      (withFpsr 1#64).fpsr.known.getLsbD NamedField.ioc.bit = true :=
  ⟨.refl _, by decide, by decide⟩

/-- UnknownBitsReadAsDraws: after reset. -/
theorem witness_UnknownBitsReadAsDraws :
    State.reset.fpsr.known = 0#64 ∧ accessGranted Config.params State.reset.ctx ∧ (0 : Fin 32) ≠ 31 ∧ (30 : Fin 32) ≠ 31 :=
  ⟨rfl, rfl, by decide, by decide⟩

/-- StepRunsDecodedInstruction, PlacedWordRunsNext: a word of each row at the pc. -/
theorem witness_StepRunsDecodedInstruction :
    (State.reset.withFetchWord 32 0xD53B443E).nextAction = .run ∧
      fetch (State.reset.withFetchWord 32 0xD53B443E).text (State.reset.withFetchWord 32 0xD53B443E).pc =
        .bytes [0x3E#8, 0x44#8, 0x3B#8, 0xD5#8] ∧
      decodeBytes [0x3E#8, 0x44#8, 0x3B#8, 0xD5#8] = .ok (.mrsFpsr 30, []) ∧
      Memory.wf State.reset.text = true ∧ decodeTableWord 32 0xD53B443E = some (.mrsFpsr 30) ∧
      decodeTableWord 32 0xD51B4421 = some (.msrFpsr 1) := by decide

/-- FetchRefusals: pcs 1 and 3 and the last multiple of 4; the multiple of 4 before it may be fetched from. -/
theorem witness_FetchRefusals :
    ({ State.reset with pc := 1#64 }.pc.toNat % 4 ≠ 0) ∧ ({ State.reset with pc := 3#64 }.pc.toNat % 4 ≠ 0) ∧
      ({ State.reset with pc := 0xFFFFFFFFFFFFFFFC#64 }.pc.toNat % 4 = 0) ∧
      ({ State.reset with pc := 0xFFFFFFFFFFFFFFFC#64 }.pc.toNat + 4 > 2 ^ 64 - 1) ∧
      fetch [] 0xFFFFFFFFFFFFFFF8#64 = .noText 0xFFFFFFFFFFFFFFF8 ∧ State.reset.nextAction = .run := by decide

/-- WordOutsideTableRefused: vector E9 at the pc. -/
theorem witness_WordOutsideTableRefused :
    fetch (State.reset.withFetchWord 32 0xD53B4400).text (State.reset.withFetchWord 32 0xD53B4400).pc =
        .bytes [0x00#8, 0x44#8, 0x3B#8, 0xD5#8] ∧
      (0xD5#8 ++ 0x3B#8 ++ 0x44#8 ++ 0x00#8 : BitVec 32) &&& 0xFFFFFFE0#32 ≠ 0xD53B4420#32 ∧
      (0xD5#8 ++ 0x3B#8 ++ 0x44#8 ++ 0x00#8 : BitVec 32) &&& 0xFFFFFFE0#32 ≠ 0xD51B4420#32 := by decide

/-- PcAfterAStep, ContextComesFromInputs, ProgramTextIsImmutable: an instruction, an event and a comparison are taken. -/
theorem witness_steps :
    (∃ u, step (State.reset.withFetchWord 32 0xD51B4421) = .next u ∧ Run (State.reset.withFetchWord 32 0xD51B4421) u) ∧
      (∃ u, step (withInput (.update .sat)) = .next u) ∧ (∃ u, step (withInput (.a64Cmp 1 0 0 0)) = .next u) :=
  ⟨⟨_, rfl, .step (.refl _) rfl⟩, ⟨_, rfl⟩, ⟨_, rfl⟩⟩

/-- StepKeepsInvariant: a state with the invariant and an instruction at its pc. -/
theorem witness_StepKeepsInvariant :
    Inv (State.reset.withFetchWord 32 0xD53B4425) ∧
      ∃ u, step (State.reset.withFetchWord 32 0xD53B4425) = .next u :=
  ⟨⟨by decide, BitVec.zero_and, by decide, fun _ e => by cases e <;> rfl⟩, ⟨_, rfl⟩⟩

/-- DecodeEncodeAgree, DecoderOnEveryWord: a word of each clause. -/
theorem witness_words :
    (Instr.mrsFpsr 31).wellFormed = true ∧ decodeWord 0xD53B443F#32 = .ok (.mrsFpsr 31) ∧
      (0xD53B443F#32 &&& 0xFFFFFFE0#32 = 0xD53B4420#32) ∧ (0xD51B4420#32 &&& 0xFFFFFFE0#32 = 0xD51B4420#32) ∧
      (0xD53B4440#32 &&& 0xFFFFFFE0#32 ≠ 0xD53B4420#32) ∧ (0xD53B4440#32 &&& 0xFFFFFFE0#32 ≠ 0xD51B4420#32) := by decide

end Sys2Proof.Tests
end

section
/-! Scope: a denied access ends in the outcome that the access check names (R10, R147). -/

namespace Sys2Proof.Machine

/-- The effect that an instruction has where the access check allows it (R96, R97). -/
def permittedEffect : Instr → State → State
  | .mrsFpsr t => mrsEffect t
  | .msrFpsr t => msrEffect t

/-- Both instructions are one guarded access and differ only in the effect of a permitted one (R96, R97). -/
theorem exec_eq_guardedAccess (i : Instr) (s : State) : exec i s = guardedAccess (permittedEffect i) s := by
  cases i <;> rfl

/-- A guarded access that the check traps ends in that trap, whatever its effect would have been. -/
theorem guardedAccess_trap {effect : State → State} {s : State} {target : EL} {ec : Nat}
    (h : accessCheck Config.params s.ctx = .trap target ec) :
    guardedAccess effect s = .fault (.trap target ec) := by
  simp [guardedAccess, h, takeTrap]

/-- A guarded access that the check finds undefined ends in Undefined, whatever its effect would have been. -/
theorem guardedAccess_undefined {effect : State → State} {s : State}
    (h : accessCheck Config.params s.ctx = .undefined) : guardedAccess effect s = .fault .undefined := by
  simp [guardedAccess, h, takeUndefined]

/-- Settles O21, by the three answers of the access check. -/
theorem deniedAccessStops : Obligations.DeniedAccessStops := by
  intro i s
  rw [exec_eq_guardedAccess]
  cases h : accessCheck Config.params s.ctx with
  | allow => exact ⟨permittedEffect i s, guardedAccess_allow h⟩
  | trap target ec => exact guardedAccess_trap h
  | undefined => exact guardedAccess_undefined h

end Sys2Proof.Machine
end

section
/-! State: the bits of the masks and of FPSR, and what R36 to R38 say of them. -/

namespace Sys2Proof.Machine

/-! ### The masks -/

/-- The value of `FIELD_MASK` in either kind of implementation (R36). -/
theorem fieldMask_eq (p : Config.Params) :
    fieldMask p = if p.haveAArch32Fp then 0x00000000F800009F#64 else 0x000000000800009F#64 := by
  unfold fieldMask
  split <;> rfl

/-- The value of `RES0_MASK` in either kind of implementation (R36). -/
theorem res0Mask_eq (p : Config.Params) :
    res0Mask p = if p.haveAArch32Fp then 0xFFFFFFFF07FFFF60#64 else 0xFFFFFFFFF7FFFF60#64 := by
  rw [res0Mask, fieldMask_eq]
  split <;> rfl

/-- With every RES0 bit hardwired the storage is the named fields (R36). -/
theorem implMask_of_hardwiredRes0 {p : Config.Params} (h : hardwiredRes0 p) : implMask p = fieldMask p := by
  simp [implMask, h]

/-- A RES0 bit is one at which no named field stands. -/
theorem getLsbD_fieldMask_of_res0 {p : Config.Params} {i : Nat} (h : (res0Mask p).getLsbD i = true) :
    (fieldMask p).getLsbD i = false := by
  rw [res0Mask, BitVec.getLsbD_not] at h
  simpa using (Bool.and_eq_true_iff.1 h).2

/-- A RES0 bit is storage exactly where `RES0_WRITABLE_MASK` makes it so (R36, R37). -/
theorem getLsbD_implMask_of_res0 {p : Config.Params} {i : Nat} (h : (res0Mask p).getLsbD i = true) :
    (implMask p).getLsbD i = p.res0WritableMask.getLsbD i := by
  simp [implMask, h, getLsbD_fieldMask_of_res0 h]

/-- A bit that is no storage is no bit of a named field. -/
theorem getLsbD_fieldMask_of_implMask {p : Config.Params} {i : Nat} (h : (implMask p).getLsbD i = false) :
    (fieldMask p).getLsbD i = false := by
  rw [implMask, BitVec.getLsbD_or] at h
  exact (Bool.or_eq_false_iff.1 h).1

/-- Which bits are RES0 (R21). -/
theorem getLsbD_res0Mask (p : Config.Params) {i : Nat} (hi : i < 64) :
    (res0Mask p).getLsbD i = true ↔
      32 ≤ i ∨ (8 ≤ i ∧ i ≤ 26) ∨ (5 ≤ i ∧ i ≤ 6) ∨ (28 ≤ i ∧ i ≤ 31 ∧ p.haveAArch32Fp = false) := by
  have table : ∀ (b : Bool) (i : Fin 64),
      (if b then 0xFFFFFFFF07FFFF60#64 else 0xFFFFFFFFF7FFFF60#64 : Word).getLsbD i = true ↔
        32 ≤ i.val ∨ (8 ≤ i.val ∧ i.val ≤ 26) ∨ (5 ≤ i.val ∧ i.val ≤ 6) ∨ (28 ≤ i.val ∧ i.val ≤ 31 ∧ b = false) := by
    decide
  rw [res0Mask_eq]
  exact table p.haveAArch32Fp ⟨i, hi⟩

/-- The cumulative fields are QC and the six exception bits (R127). -/
theorem NamedField.cumulative_iff (f : NamedField) :
    f.cumulative = true ↔ f ∈ [NamedField.qc, .idc, .ixc, .ufc, .ofc, .dzc, .ioc] := by
  cases f <;> decide

/-- Every named field stands at a bit of the register. -/
theorem NamedField.bit_lt (f : NamedField) : f.bit < 64 := by
  cases f <;> decide

/-- A cumulative field is present in every implementation. -/
theorem NamedField.present_of_cumulative {p : Config.Params} {f : NamedField} (h : f.cumulative = true) :
    f.present p = true := by
  simp [NamedField.present, h]

/-! ### Reads and writes of FPSR, bit by bit -/

/-- A write through `WriteFPSR` is read back, with no draw in it (R98, R99). -/
@[simp] theorem Fpsr.observe_written (p : Config.Params) (d v : Word) :
    (Fpsr.written p v).observe p d = v &&& implMask p := by
  simp only [Fpsr.observe, Fpsr.written, BitVec.and_allOnes, BitVec.not_allOnes, BitVec.and_zero, BitVec.or_zero,
    BitVec.and_assoc, BitVec.and_self]

/-- At a field that is present a bit made 1 is a known 1, and so reads as 1 (R98). -/
theorem Fpsr.observe_setBit_of_present {p : Config.Params} {g : NamedField} (h : g.present p = true) (f : Fpsr)
    (d : Word) : ((f.setBit g.bit).observe p d).getLsbD g.bit = true := by
  rw [Fpsr.observe_getLsbD, Fpsr.setBit_known_getLsbD f _ _ g.bit_lt, Fpsr.setBit_val_getLsbD f _ _ g.bit_lt,
    implMask_of_present h]
  simp

/-- At a field that is present a read through the FPSCR view gives what a read of FPSR gives (R130). -/
theorem Fpsr.fpscrRead_of_present {p : Config.Params} {g : NamedField} (h : g.present p = true) (f : Fpsr)
    (d : Word) : (f.fpscrRead p d).getLsbD g.bit = (f.observe p d).getLsbD g.bit := by
  have hg : (fieldMask p).getLsbD g.bit = true := (getLsbD_fieldMask p g.bit).2 ⟨g, h, rfl⟩
  simp [Fpsr.fpscrRead, hg]

/-- At a field that is present a write through the FPSCR view is read back through FPSR (R38, R130). -/
theorem Fpsr.observe_fpscrWrite_of_present {p : Config.Params} {g : NamedField} (h : g.present p = true) (f : Fpsr)
    (d v : Word) : ((f.fpscrWrite p v).observe p d).getLsbD g.bit = v.getLsbD g.bit := by
  have hg : (fieldMask p).getLsbD g.bit = true := (getLsbD_fieldMask p g.bit).2 ⟨g, h, rfl⟩
  simp [Fpsr.observe_getLsbD, Fpsr.fpscrWrite, implMask_of_present h, hg]

/-! ### What an event can reach -/

/-- The bit of an exception is that of a named field which every implementation has (R123). -/
theorem FpExc.bit_fieldMask (p : Config.Params) (e : FpExc) : (fieldMask p).getLsbD e.bit = true := by
  obtain ⟨g, hg, hbit⟩ := e.bit_cumulative
  exact (getLsbD_fieldMask p e.bit).2 ⟨g, NamedField.present_of_cumulative hg, hbit⟩

/-- With AArch32 floating-point the bits [31:28] are named fields (R23 to R26). -/
theorem getLsbD_fieldMask_of_aarch32 {p : Config.Params} (hp : p.haveAArch32Fp = true) {i : Nat}
    (hi : 28 ≤ i ∧ i ≤ 31) : (fieldMask p).getLsbD i = true := by
  rw [fieldMask_eq, if_pos hp]
  obtain ⟨hlo, hhi⟩ := hi
  interval_cases i <;> rfl

/-- An update event leaves FPSR as it was at every bit where no named field stands (R37, R121, R124, R125). -/
theorem applyEvent_getLsbD_of_not_field {p : Config.Params} {e : Event} {s u : State}
    (h : applyEvent p e s = .next u) {i : Nat} (hi : (fieldMask p).getLsbD i = false) :
    u.fpsr.val.getLsbD i = s.fpsr.val.getLsbD i ∧ u.fpsr.known.getLsbD i = s.fpsr.known.getLsbD i := by
  have not_at {b : Nat} (hb : (fieldMask p).getLsbD b = true) : i ≠ b := by
    rintro rfl
    exact Bool.false_ne_true (hi.symm.trans hb)
  obtain ⟨hwf, ⟨E, rfl, -, rfl⟩ | ⟨rfl, rfl⟩ | ⟨n, z, c, v, rfl, rfl⟩⟩ := applyEvent_next h
  · have none_there : (FpExc.all.any fun e => E.has e && decide (i = e.bit)) = false := by
      simp [fun e : FpExc => not_at (e.bit_fieldMask p)]
    simp [Fpsr.setExceptions_val_getLsbD, Fpsr.setExceptions_known_getLsbD, none_there]
  · have not_qc : i ≠ 27 := not_at ((getLsbD_fieldMask p 27).2 ⟨.qc, rfl, rfl⟩)
    simp [Fpsr.setQc_getLsbD, not_qc]
  · have outside : ¬ (28 ≤ i ∧ i ≤ 31) := fun hr => not_at (getLsbD_fieldMask_of_aarch32 hwf hr) rfl
    exact Fpsr.setNzcv_getLsbD_other _ _ i outside

/-! ### The statements -/

/-- Settles O1: the masks are closed words once the parameter is known. -/
theorem maskValues : Obligations.MaskValues :=
  ⟨rfl, rfl, rfl, fun p => ⟨rfl, fieldMask_eq p, rfl, res0Mask_eq p, rfl, implMask_of_hardwiredRes0⟩⟩

/-- Settles O2, by the facts of the two masks. -/
theorem bitAssignment : Obligations.BitAssignment :=
  ⟨by decide, NamedField.cumulative_iff, fun p i hi => ⟨getLsbD_fieldMask p i, getLsbD_res0Mask p hi⟩⟩

/-- Settles O3: at a RES0 bit the storage is `RES0_WRITABLE_MASK`, and events reach the named fields alone. -/
theorem res0BitBehaviour : Obligations.Res0BitBehaviour := by
  intro p i hi
  have himpl := getLsbD_implMask_of_res0 hi
  refine ⟨fun hw f d v => ?_, fun hw d v => ?_, fun e s u hu => ?_⟩
  · exact ⟨by simp [Fpsr.observe_getLsbD, himpl, hw], by simp [Fpsr.written, himpl, hw]⟩
  · simp [himpl, hw]
  · exact applyEvent_getLsbD_of_not_field hu (getLsbD_fieldMask_of_res0 hi)

/-- Settles O37: at a field that is present the FPSCR view reads and writes the stored bit of FPSR itself. -/
theorem fpscrSharesStorage : Obligations.FpscrSharesStorage := by
  intro p f d v g hg
  refine ⟨Fpsr.observe_fpscrWrite_of_present hg f d v, ?_, ?_, Fpsr.observe_setBit_of_present hg f d⟩
  · simp [Fpsr.fpscrRead_of_present hg, implMask_of_present hg]
  · rw [Fpsr.fpscrRead_of_present hg]
    exact Fpsr.observe_setBit_of_present hg f d

end Sys2Proof.Machine
end

section
/-! State: what a step is, what it takes from the inputs, and what it leaves unchanged. -/

namespace Sys2Proof.Machine

/-! ### The input a step takes -/

/-- With no input left a step takes none (R40; log entry 6). -/
theorem State.takeInput_of_nil {s : State} (h : s.inputs = []) : s.takeInput = s := by
  simp [State.takeInput, h]

/-- With no input left an instruction is next (log entry 6). -/
theorem State.nextAction_of_nil {s : State} (h : s.inputs = []) : s.nextAction = .run := by
  simp [State.nextAction, h]

/-- A step takes the first input, and its context is the context of the step (R40). -/
theorem State.takeInput_of_cons {s : State} {i : Input} {rest : List Input} (h : s.inputs = i :: rest) :
    s.takeInput = { s with ctx := i.ctx.held Config.params, inputs := rest } := by
  simp [State.takeInput, h]

/-- The first input says what is next (R120). -/
theorem State.nextAction_of_cons {s : State} {i : Input} {rest : List Input} (h : s.inputs = i :: rest) :
    s.nextAction = i.action := by
  simp [State.nextAction, h]

/-- Without floating-point traps a context that is held has every enable at 0 (R122). -/
theorem Ctx.noFpTraps_held {p : Config.Params} (hp : p.fpTrapsImplemented = false) (c : Ctx) :
    noFpTraps (c.held p) := by
  intro e
  cases e <;> simp [FpExc.enable, Ctx.held, heldEnable, hp]

/-- Without floating-point traps a step's context has every enable at 0 where the context before it had (R122). -/
theorem State.noFpTraps_takeInput {s : State} (hp : Config.params.fpTrapsImplemented = false) (h : noFpTraps s.ctx) :
    noFpTraps s.takeInput.ctx := by
  cases hs : s.inputs with
  | nil => rwa [State.takeInput_of_nil hs]
  | cons i rest =>
    rw [State.takeInput_of_cons hs]
    exact Ctx.noFpTraps_held hp i.ctx

/-! ### The step, one equation for each action -/

/-- A step in which an instruction runs. -/
theorem step_of_run {s : State} (h : s.nextAction = .run) : step s = runInstr s.takeInput := by
  simp [step, h]

/-- A step that is an update event. -/
theorem step_of_update {s : State} {e : Event} (h : s.nextAction = .update e) :
    step s = applyEvent Config.params e s.takeInput := by
  simp [step, h]

/-- A step that is an AArch64 comparison. -/
theorem step_of_a64Cmp {s : State} {n z c v : Bit} (h : s.nextAction = .a64Cmp n z c v) :
    step s = .next (a64CmpEffect n z c v s.takeInput) := by
  simp [step, h]

/-- Bytes that are fetched and decode to an instruction: it is executed (R42, R76). -/
theorem runInstr_of_decodeBytes {s : State} {bs rest : List Byte} {i : Instr} (hf : fetch s.text s.pc = .bytes bs)
    (hd : decodeBytes bs = .ok (i, rest)) : runInstr s = exec i s := by
  simp [runInstr, hf, hd]

/-- A pc that is not a multiple of 4 is not fetched from (R42, R63). -/
theorem runInstr_of_misaligned {s : State} (h : s.pc.toNat % 4 ≠ 0) :
    runInstr s = .refused (.misalignedFetch s.pc) := by
  simp [runInstr, fetch, h]

/-- A pc less than 4 below the top is not fetched from (R42). -/
theorem runInstr_of_pastTop {s : State} (ha : s.pc.toNat % 4 = 0) (ht : s.pc.toNat + 4 > 2 ^ 64 - 1) :
    runInstr s = .refused (.fetchPastTop s.pc) := by
  rw [runInstr, fetch, if_pos ha, if_neg (Nat.not_le_of_gt ht)]

/-! ### What a completed instruction and a taken event do -/

/-- An instruction that completes has its permitted effect and no other (R96, R97). -/
theorem exec_next_eq {i : Instr} {s u : State} (h : exec i s = .next u) : u = permittedEffect i s := by
  rw [exec_eq_guardedAccess] at h
  exact (guardedAccess_next.1 h).2

@[simp] theorem permittedEffect_pc (i : Instr) (s : State) : (permittedEffect i s).pc = s.pc + 4#64 := by
  cases i <;> simp [permittedEffect, mrsEffect, msrEffect]

@[simp] theorem permittedEffect_ctx (i : Instr) (s : State) : (permittedEffect i s).ctx = s.ctx := by
  cases i <;> simp [permittedEffect, mrsEffect, msrEffect]

@[simp] theorem permittedEffect_inputs (i : Instr) (s : State) : (permittedEffect i s).inputs = s.inputs := by
  cases i <;> simp [permittedEffect, mrsEffect, msrEffect]

@[simp] theorem permittedEffect_text (i : Instr) (s : State) : (permittedEffect i s).text = s.text := by
  cases i <;> simp [permittedEffect, mrsEffect, msrEffect]

/-- An instruction leaves FPSR or writes it through `WriteFPSR` (R65, R97). -/
theorem permittedEffect_fpsr (i : Instr) (s : State) :
    (permittedEffect i s).fpsr = s.fpsr ∨ ∃ v, (permittedEffect i s).fpsr = Fpsr.written Config.params v := by
  cases i with
  | mrsFpsr t => exact .inl (by simp [permittedEffect, mrsEffect])
  | msrFpsr t => exact .inr ⟨s.readX t, by simp [permittedEffect, msrEffect]⟩

/-- An event that is taken replaces FPSR and nothing else (R121, R124, R125). -/
theorem applyEvent_next_eq {p : Config.Params} {e : Event} {s u : State} (h : applyEvent p e s = .next u) :
    u = s.setFpsr u.fpsr := by
  obtain ⟨-, ⟨E, -, -, rfl⟩ | ⟨-, rfl⟩ | ⟨n, z, c, v, -, rfl⟩⟩ := applyEvent_next h <;> rfl

/-! ### What every step keeps -/

/-- The context and the inputs after a step are those it took (R40). -/
theorem step_ctx_inputs {s u : State} (h : step s = .next u) :
    u.ctx = s.takeInput.ctx ∧ u.inputs = s.takeInput.inputs := by
  obtain ⟨-, _, i, _, -, -, he⟩ | ⟨e, -, he⟩ | ⟨n, z, c, v, -, rfl⟩ | ⟨-, rfl⟩ := step_next h
  · simp [exec_next_eq he]
  · rw [applyEvent_next_eq he]
    exact ⟨rfl, rfl⟩
  · exact ⟨rfl, rfl⟩
  · exact ⟨rfl, rfl⟩

/-- A step leaves the program text (R68). -/
theorem step_text {s u : State} (h : step s = .next u) : u.text = s.text := by
  obtain ⟨-, _, i, _, -, -, he⟩ | ⟨e, -, he⟩ | ⟨n, z, c, v, -, rfl⟩ | ⟨-, rfl⟩ := step_next h
  · simp [exec_next_eq he]
  · rw [applyEvent_next_eq he]
    simp
  · simp [a64CmpEffect]
  · simp

/-- The pc of a fetch that gives bytes moves 4 further without wrapping (R42). -/
theorem toNat_add_four_of_fetch_bytes {text : List Host.Cell} {pc : Word} {bs : List Byte}
    (h : fetch text pc = .bytes bs) : (pc + 4#64).toNat = pc.toNat + 4 := by
  obtain ⟨-, htop, -⟩ := fetch_bytes h
  exact BitVec.toNat_add_of_lt (by simpa using (by omega : pc.toNat + 4 < 2 ^ 64))

/-- What a step does to the pc: an instruction moves it 4 further, a reset puts it at RESET_PC, and anything else leaves
it (R42; log entries 4, 14, 18, 20). -/
theorem step_pc {s u : State} (h : step s = .next u) :
    (s.nextAction = .run ∧ u.pc.toNat = s.pc.toNat + 4) ∨
      (((∃ e, s.nextAction = .update e) ∨ ∃ n z c v, s.nextAction = .a64Cmp n z c v) ∧ u.pc = s.pc) ∨
      (s.nextAction = .reset ∧ u.pc = Config.resetPc) := by
  obtain ⟨ha, bs, i, _, hf, -, he⟩ | ⟨e, ha, he⟩ | ⟨n, z, c, v, ha, rfl⟩ | ⟨ha, rfl⟩ := step_next h
  · refine .inl ⟨ha, ?_⟩
    rw [exec_next_eq he, permittedEffect_pc, State.takeInput_pc, toNat_add_four_of_fetch_bytes hf]
  · refine .inr (.inl ⟨.inl ⟨e, ha⟩, ?_⟩)
    rw [applyEvent_next_eq he]
    simp
  · exact .inr (.inl ⟨.inr ⟨n, z, c, v, ha⟩, by simp [a64CmpEffect]⟩)
  · exact .inr (.inr ⟨ha, rfl⟩)

/-! ### The statements -/

/-- Settles O33, by the equation of the comparison's step. -/
theorem aArch64CompareSetsPstate : Obligations.AArch64CompareSetsPstate := by
  intro n z c v s h
  exact ⟨_, step_of_a64Cmp h, rfl, by simp [a64CmpEffect]⟩

/-- Settles O41: taking the input leaves the text and the pc that the fetch reads. -/
theorem stepRunsDecodedInstruction : Obligations.StepRunsDecodedInstruction := by
  intro s bs rest i h hf hd
  rw [step_of_run h]
  exact runInstr_of_decodeBytes (by simpa using hf) hd

/-- Settles O42, by the two shapes of the list of inputs. -/
theorem stepTakesOneInput : Obligations.StepTakesOneInput := fun _ =>
  ⟨fun h => ⟨State.takeInput_of_nil h, State.nextAction_of_nil h⟩,
    fun _ _ h => ⟨State.nextAction_of_cons h, State.takeInput_of_cons h⟩, fun _ h => step_of_update h⟩

/-- Settles O43: taking the input leaves the pc that the fetch tests. -/
theorem fetchRefusals : Obligations.FetchRefusals := by
  intro s h
  rw [step_of_run h, ← s.takeInput_pc]
  exact ⟨runInstr_of_misaligned, runInstr_of_pastTop⟩

/-- Settles O45, by the kinds of step that can move the pc. -/
theorem pcAfterAStep : Obligations.PcAfterAStep := by
  intro s u h
  obtain ⟨ha, hpc⟩ | ⟨⟨e, ha⟩ | ⟨n, z, c, v, ha⟩, hpc⟩ | ⟨ha, hpc⟩ := step_pc h <;> simp [ha, hpc]

/-- Settles O47, by the kinds of step. -/
theorem contextComesFromInputs : Obligations.ContextComesFromInputs := fun _ _ => step_ctx_inputs

end Sys2Proof.Machine
end

section
/-! State: every step keeps the invariant, clause by clause. -/

namespace Sys2Proof.Machine

/-- FPSR holds nothing outside the storage exactly when every bit that is no storage is held as 0 (R39). -/
theorem stored_iff {p : Config.Params} {f : Fpsr} :
    f.val &&& ~~~ implMask p = 0#64 ↔ ∀ i, (implMask p).getLsbD i = false → f.val.getLsbD i = false := by
  constructor
  · intro h i hi
    by_cases hlt : i < 64
    · have hbit : (f.val &&& ~~~ implMask p).getLsbD i = false := by rw [h]; exact BitVec.getLsbD_zero
      simpa only [BitVec.getLsbD_and, BitVec.getLsbD_not, hlt, hi, decide_true, Bool.not_false, Bool.and_true]
        using hbit
    · exact BitVec.getLsbD_of_ge _ i (Nat.le_of_not_lt hlt)
  · intro h
    refine BitVec.eq_of_getLsbD_eq fun i hlt => ?_
    cases hi : (implMask p).getLsbD i with
    | false => simp [h i hi]
    | true => simp [hi]

/-- A write stores nothing outside the storage (R99). -/
theorem stored_written (p : Config.Params) (v : Word) : (Fpsr.written p v).val &&& ~~~ implMask p = 0#64 := by
  simp [Fpsr.written, BitVec.and_assoc]

/-- An event stores nothing outside the storage: it reaches the named fields alone. -/
theorem applyEvent_stored {p : Config.Params} {e : Event} {s u : State} (h : applyEvent p e s = .next u)
    (hs : s.fpsr.val &&& ~~~ implMask p = 0#64) : u.fpsr.val &&& ~~~ implMask p = 0#64 := by
  rw [stored_iff] at hs ⊢
  intro i hi
  rw [(applyEvent_getLsbD_of_not_field h (getLsbD_fieldMask_of_implMask hi)).1]
  exact hs i hi

/-- A step stores nothing of FPSR outside the storage (R39). -/
theorem step_stored {s u : State} (h : step s = .next u) (hs : s.fpsr.val &&& ~~~ implMask Config.params = 0#64) :
    u.fpsr.val &&& ~~~ implMask Config.params = 0#64 := by
  obtain ⟨-, _, i, _, -, -, he⟩ | ⟨e, -, he⟩ | ⟨n, z, c, v, -, rfl⟩ | ⟨-, rfl⟩ := step_next h
  · rw [exec_next_eq he]
    obtain hf | ⟨v, hf⟩ := permittedEffect_fpsr i s.takeInput
    · rwa [hf, State.takeInput_fpsr]
    · rw [hf]
      exact stored_written Config.params v
  · exact applyEvent_stored he (by rwa [State.takeInput_fpsr])
  · simpa [a64CmpEffect] using hs
  · simp [Fpsr.afterReset]

/-- A step keeps the pc a multiple of 4; a reset step because RESET_PC is one (R42; log entry 4). -/
theorem step_aligned {s u : State} (h : step s = .next u) (hs : s.pc.toNat % 4 = 0) : u.pc.toNat % 4 = 0 := by
  obtain ⟨-, hpc⟩ | ⟨-, hpc⟩ | ⟨-, hpc⟩ := step_pc h
  · omega
  · rwa [hpc]
  · rw [hpc]
    rfl

/-- Settles O48, one lemma for each clause of the invariant. -/
theorem stepKeepsInvariant : Obligations.StepKeepsInvariant := by
  intro s u hs h
  exact
    { text := by rw [step_text h]; exact hs.text
      stored := step_stored h hs.stored
      aligned := step_aligned h hs.aligned
      enables := fun hp => by
        rw [(step_ctx_inputs h).1]
        exact State.noFpTraps_takeInput hp (hs.enables hp) }

end Sys2Proof.Machine
end

section
/-! Memory: a read of FPSR and its write, the program text over a run, and a placed word. -/

namespace Sys2Proof.Machine

/-! ### Reads of FPSR -/

/-- A permitted read leaves FPSR as it was (R65). -/
@[simp] theorem permittedEffect_mrsFpsr_fpsr (t : Fin 32) (s : State) :
    (permittedEffect (.mrsFpsr t) s).fpsr = s.fpsr := by
  simp [permittedEffect, mrsEffect]

/-- A permitted read into an ordinary register leaves `ReadFPSR()` there (R96). -/
theorem permittedEffect_mrsFpsr_readX {t : Fin 32} (ht : t ≠ 31) (s : State) :
    (permittedEffect (.mrsFpsr t) s).readX t = s.readFpsr := by
  rw [permittedEffect, mrsEffect, State.readX_congr (State.advancePc_x _)]
  exact State.readX_writeX_same _ t _ ht

/-- At a known bit `ReadFPSR()` gives the stored bit, with no draw in it (R98). -/
theorem State.readFpsr_getLsbD_of_known {s : State} {i : Nat} (h : s.fpsr.known.getLsbD i = true) :
    s.readFpsr.getLsbD i = ((implMask Config.params).getLsbD i && s.fpsr.val.getLsbD i) := by
  simp [State.readFpsr, Fpsr.observe_getLsbD, h]

/-- Settles O24: at a known bit both reads give the bit that is stored, and the first read stores nothing. -/
theorem readsHaveNoSideEffect : Obligations.ReadsHaveNoSideEffect := by
  have read_keeps {a : Fin 32} {s u : State} (hu : exec (.mrsFpsr a) s = .next u) : u.fpsr = s.fpsr := by
    rw [exec_next_eq hu, permittedEffect_mrsFpsr_fpsr]
  have read_gives {a : Fin 32} {s u : State} (hu : exec (.mrsFpsr a) s = .next u) (ha : a ≠ 31) :
      u.readX a = s.readFpsr := by
    rw [exec_next_eq hu, permittedEffect_mrsFpsr_readX ha]
  refine ⟨fun a s u hu => read_keeps hu, fun a b s u w hu hw ha hb i hi => ?_, fun a s u hu => ?_⟩
  · rw [read_gives hw hb, read_gives hu ha, State.readFpsr_getLsbD_of_known (by rwa [read_keeps hu]),
      State.readFpsr_getLsbD_of_known hi, read_keeps hu]
  · rw [exec_next_eq hu]
    rfl

/-! ### The program text over a run -/

/-- A run leaves the program text, as each of its steps does (R68). -/
theorem Run.text_eq {s u : State} (h : Run s u) : u.text = s.text := by
  induction h with
  | refl => rfl
  | step _ hstep ih => rw [step_text hstep, ih]

/-- Settles O46: a fetch reads nothing of the state but the text, and a run leaves that. -/
theorem programTextIsImmutable : Obligations.ProgramTextIsImmutable :=
  fun _ _ h => ⟨h.text_eq, fun pc => by rw [h.text_eq]⟩

/-! ### A placed word -/

/-- What makes a pc one that may be fetched from (R42, R63). -/
theorem fetchable_iff {pc : Word} : fetchable pc = true ↔ pc.toNat % 4 = 0 ∧ pc.toNat + 4 ≤ 2 ^ 64 - 1 := by
  simp [fetchable]

/-- The pc a word is placed at may be fetched from: where RESET_PC stands in, it is 0 (R42, R63; log entry 4). -/
theorem fetchable_placePc (pc : Word) : fetchable (placePc pc) = true := by
  unfold placePc
  split
  · assumption
  · decide

/-- At a pc that may be fetched from, the fetch reads four bytes of text. -/
theorem fetch_of_fetchable {pc : Word} (h : fetchable pc = true) (text : List Host.Cell) :
    fetch text pc = readBytes text pc.toNat 4 := by
  obtain ⟨haligned, htop⟩ := fetchable_iff.1 h
  rw [fetch, if_pos haligned, if_pos htop]

/-- Four bytes written to a canonical text at a pc that may be fetched from are fetched from there (R62). -/
theorem fetch_writeBytes {text : List Host.Cell} {pc : Word} {bs : List Byte} (hpc : fetchable pc = true)
    (hbs : bs.length = 4) (htext : Memory.wf text = true) :
    fetch (writeBytes pc.toNat bs text) pc = .bytes bs := by
  have htop := (fetchable_iff.1 hpc).2
  rw [fetch_of_fetchable hpc, ← hbs]
  exact readBytes_writeBytes bs text pc.toNat (by omega) htext

/-- What is next depends on the inputs alone. -/
theorem State.nextAction_congr {s u : State} (h : u.inputs = s.inputs) : u.nextAction = s.nextAction := by
  simp only [State.nextAction, h]

/-- The inputs with which an instruction runs next: as they are where one does already, else one more in front. -/
theorem runNext_eq (s : State) :
    (s.nextAction = .run ∧ runNext s = s.inputs) ∨ runNext s = { ctx := s.ctx, action := .run } :: s.inputs := by
  unfold runNext
  split
  · exact .inl ⟨‹_›, rfl⟩
  · exact .inr rfl

/-- With a word placed, an instruction is next whatever the inputs were (log entry 6). -/
theorem State.nextAction_withFetchWord (s : State) (nbits w : Nat) : (s.withFetchWord nbits w).nextAction = .run := by
  obtain ⟨ha, hinputs⟩ | hinputs := runNext_eq s
  · rw [← ha]
    exact State.nextAction_congr hinputs
  · exact State.nextAction_of_cons (s := s.withFetchWord nbits w) hinputs

/-- With a word placed in a canonical text, its bytes are what the next step fetches (log entry 7). -/
theorem State.fetch_withFetchWord {s : State} (htext : Memory.wf s.text = true) (nbits w : Nat) :
    fetch (s.withFetchWord nbits w).text (s.withFetchWord nbits w).pc =
      .bytes (bytesOfWord (BitVec.ofNat 32 (w % 2 ^ nbits))) :=
  fetch_writeBytes (fetchable_placePc s.pc) rfl htext

/-- A table word that is read as an instruction has bytes that decode to it (R76). -/
theorem decodeBytes_of_decodeTableWord {nbits w : Nat} {i : Instr} (h : decodeTableWord nbits w = some i) :
    ∃ rest, decodeBytes (bytesOfWord (BitVec.ofNat 32 (w % 2 ^ nbits))) = .ok (i, rest) := by
  unfold decodeTableWord at h
  split at h
  · rename_i j rest hd
    cases h
    exact ⟨rest, hd⟩
  · cases h

/-- Settles O50: the placed word's bytes are fetched, so the step is that of the instruction they decode to. -/
theorem placedWordRunsNext : Obligations.PlacedWordRunsNext := by
  intro s w i htext hw
  obtain ⟨rest, hd⟩ := decodeBytes_of_decodeTableWord hw
  have hrun := s.nextAction_withFetchWord 32 w
  have hfetch := State.fetch_withFetchWord htext 32 w
  exact stepRunsDecodedInstruction _ _ rest i hrun hfetch hd

end Sys2Proof.Machine
end

section
/-! Encoding: the rows of the opcode table as numbers, and what the decoder and the encoder do to every word. -/

namespace Sys2Proof

/-! ### The rows of the opcode table -/

/-- Rt is the low five bits of the word (R74). -/
theorem rtField_val (w : InstrWord) : (rtField w).val = w.toNat % 32 := by
  simp [rtField]

/-- The mask of the rows clears the low five bits and keeps the others (R75). -/
theorem toNat_and_rowMask (w : InstrWord) : (w &&& rowMask).toNat = w.toNat / 32 * 32 := by
  have hshift : w &&& rowMask = w >>> 5 <<< 5 := by
    rw [BitVec.shiftLeft_ushiftRight]
    rfl
  rw [hshift]
  simp only [BitVec.toNat_shiftLeft, BitVec.toNat_ushiftRight, Nat.shiftLeft_eq, Nat.shiftRight_eq_div_pow]
  omega

/-- A word is a row's match value plus a register number exactly when it matches that row with that Rt (R75). -/
theorem toNat_eq_row_add_iff {w m : InstrWord} (hm : m.toNat % 32 = 0) (t : Fin 32) :
    w.toNat = m.toNat + t.val ↔ w &&& rowMask = m ∧ rtField w = t := by
  rw [← BitVec.toNat_inj, Fin.ext_iff, toNat_and_rowMask, rtField_val]
  omega

/-- An MRS word as a number: its row's match value plus Rt (R75). -/
theorem toNat_encode_mrsFpsr (t : Fin 32) : (encode (.mrsFpsr t)).toNat = mrsMatch.toNat + t.val :=
  Laws.EncodedWord.mrsFpsr t

/-- An MSR word as a number: its row's match value plus Rt (R75). -/
theorem toNat_encode_msrFpsr (t : Fin 32) : (encode (.msrFpsr t)).toNat = msrMatch.toNat + t.val :=
  Laws.EncodedWord.msrFpsr t

/-- The word of `MRS <Xt>, FPSR` is the one word of its row with Rt = t (R75). -/
theorem encode_mrsFpsr_eq_iff {t : Fin 32} {w : InstrWord} :
    encode (.mrsFpsr t) = w ↔ w &&& rowMask = mrsMatch ∧ rtField w = t := by
  rw [← toNat_eq_row_add_iff (by decide), ← toNat_encode_mrsFpsr, BitVec.toNat_inj, eq_comm]

/-- The word of `MSR FPSR, <Xt>` is the one word of its row with Rt = t (R75). -/
theorem encode_msrFpsr_eq_iff {t : Fin 32} {w : InstrWord} :
    encode (.msrFpsr t) = w ↔ w &&& rowMask = msrMatch ∧ rtField w = t := by
  rw [← toNat_eq_row_add_iff (by decide), ← toNat_encode_msrFpsr, BitVec.toNat_inj, eq_comm]

/-! ### The decoder on a word -/

/-- No word matches both rows (R75). -/
theorem not_both_rows (w : InstrWord) : ¬ (w &&& rowMask = mrsMatch ∧ w &&& rowMask = msrMatch) :=
  fun ⟨hmrs, hmsr⟩ => absurd (hmrs.symm.trans hmsr) (by decide)

/-- A word of the row MRS_FPSR (R76). -/
theorem decodeWord_of_mrsRow {w : InstrWord} (h : w &&& rowMask = mrsMatch) :
    decodeWord w = .ok (.mrsFpsr (rtField w)) :=
  if_pos h

/-- A word of the row MSR_FPSR (R76). -/
theorem decodeWord_of_msrRow {w : InstrWord} (h : w &&& rowMask = msrMatch) :
    decodeWord w = .ok (.msrFpsr (rtField w)) := by
  rw [decodeWord, if_neg fun hmrs => not_both_rows w ⟨hmrs, h⟩, if_pos h]

/-- A word of neither row (R76). -/
theorem decodeWord_of_no_row {w : InstrWord} (hmrs : w &&& rowMask ≠ mrsMatch) (hmsr : w &&& rowMask ≠ msrMatch) :
    decodeWord w = .error (.notInOpcodeTable w) := by
  rw [decodeWord, if_neg hmrs, if_neg hmsr]

/-- Decoding inverts encoding: a word decodes to the one instruction whose word it is (R75, R76). -/
theorem decodeWord_eq_ok_iff {w : InstrWord} {i : Instr} : decodeWord w = .ok i ↔ encode i = w := by
  constructor
  · intro h
    by_cases hmrs : w &&& rowMask = mrsMatch
    · rw [decodeWord_of_mrsRow hmrs] at h
      cases h
      exact encode_mrsFpsr_eq_iff.2 ⟨hmrs, rfl⟩
    by_cases hmsr : w &&& rowMask = msrMatch
    · rw [decodeWord_of_msrRow hmsr] at h
      cases h
      exact encode_msrFpsr_eq_iff.2 ⟨hmsr, rfl⟩
    · rw [decodeWord_of_no_row hmrs hmsr] at h
      cases h
  · intro h
    cases i with
    | mrsFpsr t =>
      obtain ⟨hrow, rfl⟩ := encode_mrsFpsr_eq_iff.1 h
      exact decodeWord_of_mrsRow hrow
    | msrFpsr t =>
      obtain ⟨hrow, rfl⟩ := encode_msrFpsr_eq_iff.1 h
      exact decodeWord_of_msrRow hrow

/-! ### The decoder on bytes -/

/-- The bytes of a word, the lowest address first, form that word (R62). -/
theorem wordOfBytes_extractLsb' (w : InstrWord) :
    wordOfBytes (w.extractLsb' 0 8) (w.extractLsb' 8 8) (w.extractLsb' 16 8) (w.extractLsb' 24 8) = w := by
  simp (disch := decide) only [wordOfBytes, BitVec.extractLsb'_append_extractLsb'_eq_extractLsb']
  exact BitVec.extractLsb'_eq_self

/-- The bytes of a word decode as the word does, whatever follows them (R62, R76). -/
theorem decodeBytes_bytesOfWord_append (w : InstrWord) (rest : List Byte) :
    decodeBytes (bytesOfWord w ++ rest) = (decodeWord w).map fun i => (i, rest) := by
  simp [bytesOfWord, decodeBytes, wordOfBytes_extractLsb']

/-! ### The fields of a word -/

/-- The fields of a word of the access format, from bit 31 down to Rt (R71, R72, R73, R74). -/
theorem accessWord_fields (l : BitVec 1) (t : Fin 32) :
    (accessWord l t).extractLsb' 22 10 = 0b1101010100#10 ∧ (accessWord l t).extractLsb' 21 1 = l ∧
      (accessWord l t).extractLsb' 19 2 = 0b11#2 ∧ (accessWord l t).extractLsb' 16 3 = 0b011#3 ∧
      (accessWord l t).extractLsb' 12 4 = 0b0100#4 ∧ (accessWord l t).extractLsb' 8 4 = 0b0100#4 ∧
      (accessWord l t).extractLsb' 5 3 = 0b001#3 ∧ (accessWord l t).extractLsb' 0 5 = BitVec.ofFin t := by
  revert l t
  decide

/-! ### The statements about words -/

/-- Settles O51: both halves are directions of one equivalence, and a word's bytes decode as the word does. -/
theorem decodeEncodeAgree : Obligations.DecodeEncodeAgree := by
  refine ⟨fun i rest _ => ?_, fun w i h => decodeWord_eq_ok_iff.1 h⟩
  have hword : decodeWord (encode i) = .ok i := decodeWord_eq_ok_iff.2 rfl
  refine ⟨hword, ?_⟩
  rw [decodeBytes_bytesOfWord_append, hword]
  rfl

/-- Settles O52, one case of the decoder for each clause. -/
theorem decoderOnEveryWord : Obligations.DecoderOnEveryWord := fun w =>
  ⟨fun h => ⟨rtField w, decodeWord_of_mrsRow h, rtField_val w⟩,
    fun h => ⟨rtField w, decodeWord_of_msrRow h, rtField_val w⟩, decodeWord_of_no_row, not_both_rows w⟩

/-- Settles O53: both instructions are words of the access format and differ in L alone. -/
theorem encodedFields : Obligations.EncodedFields := by
  intro t
  simp [encode, accessWord_fields, -BitVec.extractLsb'_toNat]

/-- Settles O54: the six words are the encodings of their instructions, and the decoder is evaluated on each neighbour. -/
theorem wordsOfTheEncoding : Obligations.WordsOfTheEncoding := by
  refine ⟨?_, ?_⟩
  · simp only [decodeWord_eq_ok_iff]
    decide
  · exact List.forall_iff_forall_mem.1 (by decide)

end Sys2Proof
end

section
/-! Encoding: the assembler spellings, and which instruction a line stands for. -/

namespace Sys2Proof

/-! ### The names of the registers -/

/-- The name XZR is register 31's alone (R78). -/
theorem registerName_eq_xzr_iff {t : Fin 32} : registerName t = "XZR" ↔ t.val = 31 := by
  revert t
  decide

/-- Every other register is named by its number (R78). -/
theorem registerName_of_ne {t : Fin 32} (h : t.val ≠ 31) : registerName t = "X" ++ toString t.val :=
  if_neg h

/-- Two register numbers do not share a name (R78). -/
theorem registerName_injective : Function.Injective registerName := by
  intro t u h
  by_cases ht : t.val = 31
  · have hu : u.val = 31 := registerName_eq_xzr_iff.1 (h ▸ registerName_eq_xzr_iff.2 ht)
    exact Fin.ext (ht.trans hu.symm)
  · have hu : u.val ≠ 31 := fun hu => ht (registerName_eq_xzr_iff.1 (h.trans (registerName_eq_xzr_iff.2 hu)))
    rw [registerName_of_ne ht, registerName_of_ne hu, String.append_right_inj] at h
    exact Fin.ext (Nat.repr_inj.1 h)

/-- No register's name holds the comma that separates the operands (R78). -/
theorem comma_notMem_registerName (t : Fin 32) : ',' ∉ (registerName t).toList := by
  revert t
  decide

/-! ### Spellings -/

/-- Two lines of one mnemonic agree only in both operands: the comma between them is the only one. -/
theorem operands_eq_of_line_eq {mnemonic a b a' b' : String} (ha : ',' ∉ a.toList) (hb : ',' ∉ b.toList)
    (h : mnemonic ++ a ++ ", " ++ b = mnemonic ++ a' ++ ", " ++ b') : a = a' ∧ b = b' := by
  have hsplit : a.toList ++ ',' :: ' ' :: b.toList = a'.toList ++ ',' :: ' ' :: b'.toList := by
    simpa using congrArg String.toList h
  obtain ⟨hfirst, -, hsecond⟩ := (List.append_cons_inj_of_notMem ha (by simpa using hb)).1 hsplit
  exact ⟨String.toList_inj.1 hfirst, String.toList_inj.1 (List.cons.inj hsecond).2⟩

/-- A spelling stands for one instruction, whatever the names of the register in the two lines (R78, R80). -/
theorem Instr.eq_of_spelling_eq {name name' : String} (hname : ',' ∉ name.toList) {i j : Instr}
    (h : i.spelling name = j.spelling name') : i = j := by
  cases i with
  | mrsFpsr t =>
    cases j with
    | mrsFpsr u => rw [registerName_injective (operands_eq_of_line_eq (comma_notMem_registerName t) hname h).1]
    | msrFpsr u => simpa [Instr.spelling] using congrArg String.toList h
  | msrFpsr t =>
    cases j with
    | mrsFpsr u => simpa [Instr.spelling] using congrArg String.toList h
    | msrFpsr u => rw [registerName_injective (operands_eq_of_line_eq hname (comma_notMem_registerName t) h).2]

/-! ### Transcription -/

/-- The search for the only element that passes the test finds it. -/
theorem find?_eq_some_of_unique {α : Type} {p : α → Bool} {l : List α} {a : α} (hmem : a ∈ l) (ha : p a = true)
    (hunique : ∀ b, p b = true → b = a) : l.find? p = some a := by
  cases hfind : l.find? p with
  | none => exact absurd ha (List.find?_eq_none.1 hfind a hmem)
  | some b => rw [hunique b (List.find?_some hfind)]

/-- Every instruction is in the list that `transcribe` searches (R77). -/
theorem Instr.mem_all (i : Instr) : i ∈ Instr.all := by
  cases i <;> simp [Instr.all]

/-- The lines that stand for an instruction are its spellings with the two names (R78, R80). -/
theorem transcribe_eq_some_iff {line : String} {i : Instr} :
    transcribe line = some i ↔ line = i.spelling "FPSR" ∨ line = i.spelling "S3_3_C4_C4_1" := by
  constructor
  · intro h
    simpa using List.find?_some h
  · intro h
    refine find?_eq_some_of_unique i.mem_all (by simpa using h) fun j hj => ?_
    have hspelled : ∃ name : String, ',' ∉ name.toList ∧ line = j.spelling name := by
      simp only [Bool.or_eq_true, beq_iff_eq] at hj
      exact hj.elim (fun hj => ⟨_, by decide, hj⟩) (fun hj => ⟨_, by decide, hj⟩)
    obtain ⟨name, hname, rfl⟩ := hspelled
    exact h.elim (Instr.eq_of_spelling_eq hname) (Instr.eq_of_spelling_eq hname)

/-- Settles O55: each spelling is one of the lines that stand for the instruction. -/
theorem spellingsTranscribe : Obligations.SpellingsTranscribe :=
  fun _ => ⟨transcribe_eq_some_iff.2 (.inl rfl), transcribe_eq_some_iff.2 (.inr rfl)⟩

end Sys2Proof
end

section
/-! Encoding: a fetched word outside the opcode table. -/

namespace Sys2Proof.Machine

/-- Bytes that are fetched and do not decode: the step ends in the refusal that names the decoder's reason (R76). -/
theorem runInstr_of_decodeBytes_error {s : State} {bs : List Byte} {e : DecodeError}
    (hf : fetch s.text s.pc = .bytes bs) (hd : decodeBytes bs = .error e) :
    runInstr s = .refused (.notDecoded e) := by
  simp [runInstr, hf, hd]

/-- Settles O44: the four bytes form a word of neither row, which the decoder refuses. -/
theorem wordOutsideTableRefused : Obligations.WordOutsideTableRefused := by
  intro s b0 b1 b2 b3 h hf hmrs hmsr
  have hword : decodeWord (wordOfBytes b0 b1 b2 b3) = _ := decodeWord_of_no_row hmrs hmsr
  have hbytes : decodeBytes [b0, b1, b2, b3] = .error (.notInOpcodeTable (wordOfBytes b0 b1 b2 b3)) := by
    rw [decodeBytes, hword]
    rfl
  rw [step_of_run h]
  exact runInstr_of_decodeBytes_error (by simpa using hf) hbytes

end Sys2Proof.Machine
end

section
/-! System register access: the access check clause by clause, and the causes of its outcomes. -/

namespace Sys2Proof.Machine

/-! ### The first true condition -/

/-- The first condition decides when it is true, and what follows it otherwise. -/
theorem firstTrue_cons (cond : Bool) (outcome : Access) (rest : List (Bool × Access)) (last : Access) :
    firstTrue ((cond, outcome) :: rest) last = if cond = true then outcome else firstTrue rest last := rfl

/-- A condition narrowed by a second one and then alone: the second chooses between the two outcomes. -/
theorem firstTrue_narrowed (cond narrower : Bool) (outcome outcome' : Access) (rest : List (Bool × Access))
    (last : Access) :
    firstTrue ((cond && narrower, outcome) :: (cond, outcome') :: rest) last =
      if cond = true then (if narrower = true then outcome else outcome') else firstTrue rest last := by
  cases cond <;> cases narrower <;> rfl

/-! ### The arm of each level -/

/-- The arm of EL0 (R90). -/
theorem accessCheck_of_el0 {c : Ctx} (h : c.el = .el0) (p : Config.Params) : accessCheck p c = accessEl0 p c := by
  simp [accessCheck, h]

/-- The arm of EL1 (R90). -/
theorem accessCheck_of_el1 {c : Ctx} (h : c.el = .el1) (p : Config.Params) : accessCheck p c = accessEl1 p c := by
  simp [accessCheck, h]

/-- The arm of EL2 (R90). -/
theorem accessCheck_of_el2 {c : Ctx} (h : c.el = .el2) (p : Config.Params) : accessCheck p c = accessEl2 p c := by
  simp [accessCheck, h]

/-- The arm of EL3 (R90). -/
theorem accessCheck_of_el3 {c : Ctx} (h : c.el = .el3) (p : Config.Params) : accessCheck p c = accessEl3 c := by
  simp [accessCheck, h]

/-- The last steps of the arms below EL3 are two conditions in order (R91 step 6, R92 step 5, R93 step 4). -/
theorem el3Steps_eq_firstTrue (p : Config.Params) (c : Ctx) :
    (if el3Denies p c then el3Denial c else .allow) =
      firstTrue [(el3Denies p c && c.halted && c.sdd == 1#1, .undefined), (el3Denies p c, .trap .el3 0x07)] .allow := by
  rw [Bool.and_assoc, firstTrue_narrowed]
  rfl

/-- Settles O4: step 2 of the list is two conditions, and so is the last. -/
theorem accessCheckAtEl0 : Obligations.AccessCheckAtEl0 := by
  intro p c h
  rw [accessCheck_of_el0 h, accessEl0, el3Steps_eq_firstTrue]
  intro el2 el1Denies el3Denies
  rw [firstTrue_cons (preUndefined p c), Bool.and_assoc el1Denies, firstTrue_narrowed]
  rfl

/-- Settles O5: the last step of the list is two conditions. -/
theorem accessCheckAtEl1 : Obligations.AccessCheckAtEl1 := by
  intro p c h
  rw [accessCheck_of_el1 h, accessEl1, el3Steps_eq_firstTrue]
  rfl

/-- Settles O6: the last step of the list is two conditions. -/
theorem accessCheckAtEl2 : Obligations.AccessCheckAtEl2 := by
  intro p c h
  rw [accessCheck_of_el2 h, accessEl2, el3Steps_eq_firstTrue]
  rfl

/-- At EL3 an access is denied where CPTR_EL3.TFP is 1 (R94). -/
theorem accessEl3_of_tfp_eq_one {c : Ctx} (h : c.cptrEl3Tfp = 1#1) : accessEl3 c = .trap .el3 0x07 := by
  simp [accessEl3, h]

/-- At EL3 an access is allowed where CPTR_EL3.TFP is 0 (R94). -/
theorem accessEl3_of_tfp_eq_zero {c : Ctx} (h : c.cptrEl3Tfp = 0#1) : accessEl3 c = .allow := by
  simp [accessEl3, h]

/-- Settles O7, by the two values of the field. -/
theorem accessCheckAtEl3 : Obligations.AccessCheckAtEl3 := by
  intro p c h
  rw [accessCheck_of_el3 h]
  exact ⟨accessEl3_of_tfp_eq_one, accessEl3_of_tfp_eq_zero⟩

/-! ### The debug-state predicate and EL3's control -/

/-- The six conditions of `Pre` (R95). -/
theorem preUndefined_iff {p : Config.Params} {c : Ctx} :
    preUndefined p c = true ↔ c.halted = true ∧ p.haveEl3 = true ∧ c.sdd = 1#1 ∧ p.el3TrapPriorityWhenSdd = true ∧
      c.el3AArch32 = false ∧ c.cptrEl3Tfp = 1#1 := by
  simp [preUndefined, and_assoc]

/-- The three conditions of a denial by EL3's control from below EL3 (R91 to R93). -/
theorem el3Denies_iff {p : Config.Params} {c : Ctx} :
    el3Denies p c = true ↔ p.haveEl3 = true ∧ c.el3AArch32 = false ∧ c.cptrEl3Tfp = 1#1 := by
  simp [el3Denies, and_assoc]

/-- Below EL3 `Pre` decides before anything else (R95). -/
theorem accessCheck_of_preUndefined {p : Config.Params} {c : Ctx} (hel : c.el ≠ .el3)
    (hpre : preUndefined p c = true) : accessCheck p c = .undefined := by
  cases h : c.el with
  | el0 => rw [accessCheck_of_el0 h, accessEl0, if_pos hpre]
  | el1 => rw [accessCheck_of_el1 h, accessEl1, if_pos hpre]
  | el2 => rw [accessCheck_of_el2 h, accessEl2, if_pos hpre]
  | el3 => exact absurd h hel

/-- Settles O8: the arm of EL3 does not test `Pre`, whose last condition is that arm's own. -/
theorem preDecidesFirst : Obligations.PreDecidesFirst := by
  refine fun p c => ⟨preUndefined_iff, accessCheck_of_preUndefined, fun h hpre => ?_⟩
  obtain ⟨-, -, -, -, -, htfp⟩ := preUndefined_iff.1 hpre
  exact (accessCheckAtEl3 p c h).1 htfp

/-! ### Where each outcome arises -/

/-- A control bit that is not 1 is 0. -/
theorem bit_ne_one_iff {b : Bit} : ¬ b = 1#1 ↔ b = 0#1 := by
  revert b
  decide

/-- Settles O11: at each level the outcome is that of the first true condition of the level's list, which is its cause. -/
theorem outcomesAndWhereTheyArise : Obligations.OutcomesAndWhereTheyArise := by
  intro p c
  cases h : c.el with
  | el0 =>
    rw [accessCheckAtEl0 p c h]
    simp only [firstTrue, Bool.and_eq_true, Bool.not_eq_true', beq_iff_eq, bne_iff_ne, preUndefined_iff]
    split_ifs with hpre htge hcpacr hstrict hfpen htfp hdebug hel3
    · simp [hpre]
    · simp [htge]
    · simp [hcpacr]
    · simp [hstrict]
    · simp [hfpen, -BitVec.getLsbD_eq_getElem]
    · simp [htfp, ← bit_ne_one_iff]
    · simp [hdebug]
    · simpa [hel3] using hdebug
    · trivial
  | el1 =>
    rw [accessCheckAtEl1 p c h]
    simp only [firstTrue, Bool.and_eq_true, Bool.not_eq_true', beq_iff_eq, bne_iff_ne, preUndefined_iff]
    split_ifs with hpre hcpacr htfp hfpen hdebug hel3
    · simp [hpre]
    · simpa using hcpacr
    · simp [htfp, ← bit_ne_one_iff]
    · simp [hfpen, -BitVec.getLsbD_eq_getElem]
    · simp [hdebug]
    · simpa [hel3] using hdebug
    · trivial
  | el2 =>
    rw [accessCheckAtEl2 p c h]
    simp only [firstTrue, Bool.and_eq_true, Bool.not_eq_true', beq_iff_eq, preUndefined_iff]
    split_ifs with hpre htfp hfpen hdebug hel3
    · simp [hpre]
    · simp [htfp]
    · simp [hfpen, -BitVec.getLsbD_eq_getElem]
    · simp [hdebug]
    · simpa [hel3] using hdebug
    · trivial
  | el3 =>
    obtain htfp | htfp := BitVec.eq_zero_or_eq_one c.cptrEl3Tfp
    · rw [(accessCheckAtEl3 p c h).2 htfp]
      trivial
    · simp [(accessCheckAtEl3 p c h).1 htfp, htfp]

end Sys2Proof.Machine
end

section
/-! System register access: the access check allows exactly where R151 grants access. -/

namespace Sys2Proof.Machine

/-- `Pre` asks among others for a denial by EL3's control (R95). -/
theorem el3Denies_of_preUndefined {p : Config.Params} {c : Ctx} (h : preUndefined p c = true) :
    el3Denies p c = true := by
  obtain ⟨-, hhave, -, -, hwidth, htfp⟩ := preUndefined_iff.1 h
  exact el3Denies_iff.2 ⟨hhave, hwidth, htfp⟩

/-- EL3's control denies exactly where R151 does not let the access past it. -/
theorem el3Denies_eq_false_iff {p : Config.Params} {c : Ctx} : el3Denies p c = false ↔ el3Lets p c := by
  simp [el3Denies, el3Lets, bit_ne_one_iff]

/-- `Pre` does not hold where EL3's control lets the access past (R95, R151). -/
theorem preUndefined_of_el3Lets {p : Config.Params} {c : Ctx} (h : el3Lets p c) : preUndefined p c = false := by
  by_contra hpre
  have hdenies : el3Denies p c = true := el3Denies_of_preUndefined (by simpa using hpre)
  exact Bool.false_ne_true ((el3Denies_eq_false_iff.2 h).symm.trans hdenies)

/-- The pattern 'x0' does not fit where bit 0 is set (R7). -/
theorem isX0_eq_false_iff {f : BitVec 2} : isX0 f = false ↔ f.getLsbD 0 = true := by
  simp [isX0]

/-- The three EL2 steps of R91 are false exactly where R151 lets the access past EL2's control; R92 has no first one. -/
theorem el2Lets_iff {c : Ctx} {strict : Bool} :
    el2Lets c strict ↔
      (c.el2Enabled && !c.el2AArch32 && c.e2h == 1#1 && strict && c.cptrEl2Fpen != 0b11#2) = false ∧
        (c.el2Enabled && !c.el2AArch32 && c.e2h == 1#1 && isX0 c.cptrEl2Fpen) = false ∧
        (c.el2Enabled && !c.el2AArch32 && c.e2h != 1#1 && c.cptrEl2Tfp == 1#1) = false := by
  have bit_zero : c.cptrEl2Fpen = 0b11#2 → c.cptrEl2Fpen[0] = true := fun h => h ▸ rfl
  cases strict <;> simp [el2Lets, isX0, bit_ne_one_iff] <;> tauto

/-- A step that denies lets the access be allowed only where its condition is false. -/
theorem ite_eq_allow_iff {cond : Bool} {denial rest : Access} (h : denial ≠ .allow) :
    (if cond then denial else rest) = .allow ↔ cond = false ∧ rest = .allow := by
  cases cond <;> simp [h]

/-- The steps for EL3's control end in `Allow` exactly where R151 lets the access past it. -/
theorem el3Steps_eq_allow_iff {p : Config.Params} {c : Ctx} :
    (if el3Denies p c then el3Denial c else .allow) = .allow ↔ el3Lets p c := by
  have hdenial : el3Denial c ≠ .allow := by
    unfold el3Denial
    split <;> simp
  rw [ite_eq_allow_iff hdenial, el3Denies_eq_false_iff]
  simp

/-- EL1's control denies at EL0 exactly where R151 does not let the access past it. -/
theorem el1Step_eq_false_iff {c : Ctx} :
    (!c.el1AArch32 && !(c.el2Enabled && c.e2h == 1#1 && c.tge == 1#1) && c.cpacrFpen != 0b11#2) = false ↔
      c.cpacrFpen = 0b11#2 ∨ c.el1AArch32 = true ∨ (c.el2Enabled = true ∧ c.e2h = 1#1 ∧ c.tge = 1#1) := by
  rw [← Bool.not_eq_true]
  simp only [Bool.and_eq_true, Bool.not_eq_true', ← Bool.not_eq_true, beq_iff_eq, bne_iff_ne]
  tauto

/-- The arm of EL0 allows exactly under R151's conditions for EL0. -/
theorem accessEl0_eq_allow_iff {p : Config.Params} {c : Ctx} (h : c.el = .el0) :
    accessEl0 p c = .allow ↔ accessGranted p c := by
  have hpre : el3Lets p c → preUndefined p c = false := preUndefined_of_el3Lets
  simp only [accessEl0, ite_eq_allow_iff, el3Steps_eq_allow_iff, ne_eq, reduceCtorEq, not_false_eq_true, and_false,
    accessGranted, h, el1Step_eq_false_iff, el2Lets_iff]
  tauto

/-- The arm of EL1 allows exactly under R151's conditions for EL1. -/
theorem accessEl1_eq_allow_iff {p : Config.Params} {c : Ctx} (h : c.el = .el1) :
    accessEl1 p c = .allow ↔ accessGranted p c := by
  have hpre : el3Lets p c → preUndefined p c = false := preUndefined_of_el3Lets
  simp only [accessEl1, ite_eq_allow_iff, el3Steps_eq_allow_iff, ne_eq, reduceCtorEq, not_false_eq_true,
    accessGranted, h, el2Lets_iff, Bool.and_false, Bool.false_and, isX0_eq_false_iff]
  tauto

/-- The arm of EL2 allows exactly under R151's conditions for EL2. -/
theorem accessEl2_eq_allow_iff {p : Config.Params} {c : Ctx} (h : c.el = .el2) :
    accessEl2 p c = .allow ↔ accessGranted p c := by
  have hpre : el3Lets p c → preUndefined p c = false := preUndefined_of_el3Lets
  have htfp : (c.e2h == 0#1 && c.cptrEl2Tfp == 1#1) = false ↔ (c.e2h = 0#1 → c.cptrEl2Tfp = 0#1) := by
    simp [bit_ne_one_iff]
  have hfpen : (c.e2h == 1#1 && isX0 c.cptrEl2Fpen) = false ↔ (c.e2h = 1#1 → c.cptrEl2Fpen.getLsbD 0 = true) := by
    simp [isX0]
  simp only [accessEl2, ite_eq_allow_iff, el3Steps_eq_allow_iff, ne_eq, reduceCtorEq, not_false_eq_true,
    accessGranted, h, htfp, hfpen]
  tauto

/-- The arm of EL3 allows exactly under R151's condition for EL3. -/
theorem accessEl3_eq_allow_iff {p : Config.Params} {c : Ctx} (h : c.el = .el3) :
    accessEl3 c = .allow ↔ accessGranted p c := by
  simp [accessEl3, accessGranted, h, bit_ne_one_iff]

/-- The access check allows exactly under the conditions that R151 lists for the level. -/
theorem accessCheck_eq_allow_iff {p : Config.Params} {c : Ctx} : accessCheck p c = .allow ↔ accessGranted p c := by
  cases h : c.el with
  | el0 => rw [accessCheck_of_el0 h, accessEl0_eq_allow_iff h]
  | el1 => rw [accessCheck_of_el1 h, accessEl1_eq_allow_iff h]
  | el2 => rw [accessCheck_of_el2 h, accessEl2_eq_allow_iff h]
  | el3 => rw [accessCheck_of_el3 h, accessEl3_eq_allow_iff h]

end Sys2Proof.Machine
end

section
/-! System register access: the fields of the context that each arm of the access check reads. -/

namespace Sys2Proof.Machine

/-- `Pre` reads no field but those of R102's list for EL2. -/
theorem preUndefined_congr {c c' : Ctx} (h : c.agreeAtEl2 c') (p : Config.Params) :
    preUndefined p c = preUndefined p c' := by
  obtain ⟨hhalted, hsdd, hwidth, -, -, -, htfp⟩ := h
  simp only [preUndefined, hhalted, hsdd, hwidth, htfp]

/-- Whether EL3's control denies reads no field but those of R102's list for EL2. -/
theorem el3Denies_congr {c c' : Ctx} (h : c.agreeAtEl2 c') (p : Config.Params) :
    el3Denies p c = el3Denies p c' := by
  obtain ⟨-, -, hwidth, -, -, -, htfp⟩ := h
  simp only [el3Denies, hwidth, htfp]

/-- Which denial by EL3's control it is reads no field but those of R102's list for EL2. -/
theorem el3Denial_congr {c c' : Ctx} (h : c.agreeAtEl2 c') : el3Denial c = el3Denial c' := by
  obtain ⟨hhalted, hsdd, -⟩ := h
  rw [el3Denial, el3Denial, hhalted, hsdd]

/-- The arm of EL2 reads no other field (R102). -/
theorem accessEl2_congr {c c' : Ctx} (h : c.agreeAtEl2 c') (p : Config.Params) : accessEl2 p c = accessEl2 p c' := by
  rw [accessEl2, accessEl2, preUndefined_congr h, el3Denies_congr h, el3Denial_congr h]
  obtain ⟨-, -, -, he2h, hfpen, htfp, -⟩ := h
  rw [he2h, hfpen, htfp]

/-- The arm of EL1 reads no other field (R102). -/
theorem accessEl1_congr {c c' : Ctx} (h : c.agreeAtEl1 c') (p : Config.Params) : accessEl1 p c = accessEl1 p c' := by
  obtain ⟨h, hcpacr, hen, hwidth⟩ := h
  rw [accessEl1, accessEl1, preUndefined_congr h, el3Denies_congr h, el3Denial_congr h]
  obtain ⟨-, -, -, he2h, hfpen, htfp, -⟩ := h
  rw [hcpacr, hen, hwidth, he2h, hfpen, htfp]

/-- The arm of EL0 reads no other field (R102). -/
theorem accessEl0_congr {c c' : Ctx} (h : c.agreeAtEl0 c') (p : Config.Params) : accessEl0 p c = accessEl0 p c' := by
  obtain ⟨⟨h, hcpacr, hen, hwidth⟩, hel1, htge⟩ := h
  rw [accessEl0, accessEl0, preUndefined_congr h, el3Denies_congr h, el3Denial_congr h]
  obtain ⟨-, -, -, he2h, hfpen, htfp, -⟩ := h
  rw [hcpacr, hen, hwidth, hel1, htge, he2h, hfpen, htfp]

/-- Settles O10: contexts that agree on an arm's list of fields get the same answer from that arm. -/
theorem accessCheckIndependence : Obligations.AccessCheckIndependence := by
  intro p c c' hel
  refine ⟨fun h htfp => ?_, fun h hag => ?_, fun h hag => ?_, fun h hag => ?_⟩
  · rw [accessCheck_of_el3 h, accessCheck_of_el3 (hel ▸ h), accessEl3, accessEl3, htfp]
  · rw [accessCheck_of_el2 h, accessCheck_of_el2 (hel ▸ h), accessEl2_congr hag]
  · rw [accessCheck_of_el1 h, accessCheck_of_el1 (hel ▸ h), accessEl1_congr hag]
  · rw [accessCheck_of_el0 h, accessCheck_of_el0 (hel ▸ h), accessEl0_congr hag]

end Sys2Proof.Machine
end

section
/-! System register access: what the two instructions do where access is granted, and what they leave unchanged. -/

namespace Sys2Proof.Machine

/-! ### FPSR read and written -/

/-- What `WriteFPSR(v)` stores, bit by bit (R99). -/
theorem Fpsr.written_val_getLsbD (p : Config.Params) (v : Word) (i : Nat) :
    (Fpsr.written p v).val.getLsbD i = (v.getLsbD i && (implMask p).getLsbD i) :=
  BitVec.getLsbD_and

/-- Settles O26: the value is the definition of `ReadFPSR()`, and its bits are a law of the model. -/
theorem readFpsrBits : Obligations.ReadFpsrBits := fun p f d => ⟨rfl, Fpsr.observe_getLsbD p d f⟩

/-- Settles O27: a field that is present stands at a storage bit. -/
theorem writeFpsrBits : Obligations.WriteFpsrBits := by
  refine fun p v => ⟨rfl, rfl, fun f hf => ?_, fun i hi => ?_⟩
  · simp [Fpsr.written_val_getLsbD, implMask_of_present hf]
  · simp [Fpsr.written_val_getLsbD, hi]

/-! ### Granted and denied -/

/-- Where R151 grants access an instruction completes with its effect (R96, R97). -/
theorem exec_of_granted {s : State} (h : accessGranted Config.params s.ctx) (i : Instr) :
    exec i s = .next (permittedEffect i s) := by
  rw [exec_eq_guardedAccess]
  exact guardedAccess_allow (accessCheck_eq_allow_iff.2 h)

/-- Where R151 does not grant access an instruction ends in a fault (R10). -/
theorem exec_of_not_granted {s : State} (h : ¬ accessGranted Config.params s.ctx) (i : Instr) :
    ∃ f, exec i s = .fault f := by
  rw [exec_eq_guardedAccess]
  cases ha : accessCheck Config.params s.ctx with
  | allow => exact absurd (accessCheck_eq_allow_iff.1 ha) h
  | trap target ec => exact ⟨_, guardedAccess_trap ha⟩
  | undefined => exact ⟨_, guardedAccess_undefined ha⟩

/-! ### The effects -/

/-- A permitted write stores the register's value through `WriteFPSR` (R97). -/
@[simp] theorem permittedEffect_msrFpsr_fpsr (t : Fin 32) (s : State) :
    (permittedEffect (.msrFpsr t) s).fpsr = Fpsr.written Config.params (s.readX t) := rfl

/-- A permitted write leaves the x registers (R97). -/
@[simp] theorem permittedEffect_msrFpsr_x (t : Fin 32) (s : State) :
    (permittedEffect (.msrFpsr t) s).x = s.x := rfl

/-- A permitted read leaves every register but its destination (R96). -/
theorem permittedEffect_mrsFpsr_readX_ne {t t' : Fin 32} (h : t' ≠ t) (s : State) :
    (permittedEffect (.mrsFpsr t) s).readX t' = s.readX t' := by
  rw [permittedEffect, mrsEffect, State.readX_congr (State.advancePc_x _), State.readX_writeX_ne _ _ _ _ h]
  exact State.readX_congr (State.takeDraw_x s) t'

/-- A permitted read into the zero register leaves the x registers (R100). -/
@[simp] theorem permittedEffect_mrsFpsr_zr_x (s : State) : (permittedEffect (.mrsFpsr 31) s).x = s.x := rfl

/-- An instruction leaves PSTATE's flags (R43). -/
@[simp] theorem permittedEffect_pstateNzcv (i : Instr) (s : State) :
    (permittedEffect i s).pstateNzcv = s.pstateNzcv := by
  cases i <;> simp [permittedEffect, mrsEffect, msrEffect]

/-- A permitted read takes one draw (R98). -/
@[simp] theorem permittedEffect_mrsFpsr_draws (t : Fin 32) (s : State) :
    (permittedEffect (.mrsFpsr t) s).draws = s.draws + 1 := by
  simp [permittedEffect, mrsEffect]

/-- A permitted write takes no draw (R99). -/
@[simp] theorem permittedEffect_msrFpsr_draws (t : Fin 32) (s : State) :
    (permittedEffect (.msrFpsr t) s).draws = s.draws := rfl

/-! ### The statements -/

/-- Settles O17: an ordinary register holds `ReadFPSR()`, and the zero register discards it. -/
theorem mrsCompletesWithFpsr : Obligations.MrsCompletesWithFpsr := by
  intro t s h
  refine ⟨_, exec_of_granted h _, ?_, by simp, by simp⟩
  split
  · subst t
    exact State.readX_zr _
  · exact permittedEffect_mrsFpsr_readX ‹_› s

/-- Settles O18: FPSR is replaced through `WriteFPSR` by the value of the register. -/
theorem msrCompletesWithRegister : Obligations.MsrCompletesWithRegister :=
  fun _ _ h => ⟨_, exec_of_granted h _, rfl, rfl, rfl⟩

/-- Settles O19, one field after the other of the effect of a read. -/
theorem mrsFrame : Obligations.MrsFrame := by
  intro t s u h
  rw [exec_next_eq h]
  exact ⟨fun t' ht' => permittedEffect_mrsFpsr_readX_ne ht' s, by simp⟩

/-- Settles O20, one field after the other of the effect of a write. -/
theorem msrFrame : Obligations.MsrFrame := by
  intro t s u h
  rw [exec_next_eq h]
  exact ⟨State.readX_congr (permittedEffect_msrFpsr_x t s), by simp⟩

/-- Settles O23: number 31 discards what is read into it and gives 0 to what is written. -/
theorem zeroRegisterOperand : Obligations.ZeroRegisterOperand := by
  refine fun s => ⟨fun h => ⟨?_, ?_⟩, fun h => ⟨exec_of_not_granted h _, exec_of_not_granted h _⟩⟩
  · exact ⟨_, exec_of_granted h _, permittedEffect_mrsFpsr_zr_x s⟩
  · exact ⟨_, exec_of_granted h _, by simp [Fpsr.written]⟩

/-- Settles O25: the write leaves the context that grants the read, and a value that is written has no draw in it. -/
theorem writtenValueReadsBack : Obligations.WrittenValueReadsBack := by
  intro a b s h hb
  have hread : accessGranted Config.params (permittedEffect (.msrFpsr a) s).ctx := by simpa using h
  refine ⟨_, _, exec_of_granted h _, exec_of_granted hread _, ?_⟩
  rw [permittedEffect_mrsFpsr_readX hb, State.readFpsr, permittedEffect_msrFpsr_fpsr, Fpsr.observe_written]

end Sys2Proof.Machine
end

section
/-! Implicit updates: what the update events do to FPSR, and what a run between two writes keeps of it. -/

namespace Sys2Proof.Machine

/-! ### Sets of exceptions -/

/-- R123's table lists every exception. -/
theorem FpExc.mem_all (e : FpExc) : e ∈ FpExc.all := by
  cases e <;> decide

/-- The cumulative exception bits stand below QC and the flags (R21, R123). -/
theorem FpExc.bit_lt (e : FpExc) : e.bit < 27 := by
  cases e <;> decide

/-- The bits that R121's loop reaches are those of the exceptions in the set. -/
theorem ExcSet.any_bit_iff (E : ExcSet) (i : Nat) :
    (FpExc.all.any fun e => E.has e && decide (i = e.bit)) = true ↔ ∃ e, E.has e = true ∧ e.bit = i := by
  simp [FpExc.mem_all, eq_comm (a := i)]

/-- R122's condition holds exactly when an exception of the set has its enable set. -/
theorem ExcSet.anyEnabled_iff {E : ExcSet} {c : Ctx} :
    E.anyEnabled c = true ↔ ∃ e, E.has e = true ∧ FpExc.enable c e = 1#1 := by
  simp [ExcSet.anyEnabled, FpExc.mem_all]

/-- With the enables of the set clear R122's condition fails. -/
theorem ExcSet.anyEnabled_of_clear {E : ExcSet} {c : Ctx} (h : ∀ e, E.has e = true → FpExc.enable c e = 0#1) :
    E.anyEnabled c = false := by
  rw [Bool.eq_false_iff, Ne, ExcSet.anyEnabled_iff]
  rintro ⟨e, he, hen⟩
  exact absurd ((h e he).symm.trans hen) (by decide)

/-- R122's condition reads the enables of the context alone. -/
theorem ExcSet.anyEnabled_congr {c c' : Ctx} (h : ∀ e, FpExc.enable c e = FpExc.enable c' e) (E : ExcSet) :
    E.anyEnabled c = E.anyEnabled c' := by
  simp only [ExcSet.anyEnabled, h]

/-- `FPExc(E)` is an event of the spec exactly when `E` is not empty (R120). -/
theorem Event.wellFormed_fpExc_iff {p : Config.Params} {E : ExcSet} :
    (Event.fpExc E).wellFormed p = true ↔ ∃ e, E.has e = true := by
  simp [Event.wellFormed, FpExc.mem_all]

/-- With floating-point traps the machine sees the context as it is offered (R122). -/
theorem Ctx.held_of_fpTraps {p : Config.Params} (hp : p.fpTrapsImplemented = true) (c : Ctx) : c.held p = c := by
  simp [Ctx.held, heldEnable, hp]

/-! ### The events, one equation for each case -/

/-- An input that is no event of the spec is refused by name (log entry 14). -/
theorem applyEvent_of_not_wellFormed {p : Config.Params} {e : Event} (h : e.wellFormed p = false) (s : State) :
    applyEvent p e s = .refused (.noSuchEvent e) := by
  simp [applyEvent, h]

/-- An event of floating-point exceptions whose enables are clear sets their bits (R121). -/
theorem applyEvent_fpExc_of_clear {p : Config.Params} {E : ExcSet} {s : State}
    (hw : (Event.fpExc E).wellFormed p = true) (he : E.anyEnabled s.ctx = false) :
    applyEvent p (.fpExc E) s = .next (s.setFpsr (s.fpsr.setExceptions E)) := by
  simp [applyEvent, hw, fpExcEvent, he]

/-- An event of floating-point exceptions is refused as trapped exactly when one of them has its enable set (R122; log
entry 12). -/
theorem applyEvent_fpExc_trapped_iff {p : Config.Params} {E : ExcSet} {s : State} :
    applyEvent p (.fpExc E) s = .refused (.trappedFPException E) ↔ ∃ e, E.has e = true ∧ FpExc.enable s.ctx e = 1#1 := by
  rw [← ExcSet.anyEnabled_iff]
  constructor
  · intro h
    by_contra he
    have he : E.anyEnabled s.ctx = false := by simpa using he
    cases hw : (Event.fpExc E).wellFormed p with
    | false => simp [applyEvent_of_not_wellFormed hw] at h
    | true => simp [applyEvent_fpExc_of_clear hw he] at h
  · intro he
    obtain ⟨e, hE, -⟩ := ExcSet.anyEnabled_iff.1 he
    simp [applyEvent, Event.wellFormed_fpExc_iff.2 ⟨e, hE⟩, fpExcEvent, he]

/-- A saturation sets QC (R124). -/
theorem applyEvent_sat (p : Config.Params) (s : State) : applyEvent p .sat s = .next (s.setFpsr s.fpsr.setQc) := rfl

/-- With AArch32 floating-point a comparison overwrites the flags (R125). -/
theorem applyEvent_a32Cmp {p : Config.Params} (hp : p.haveAArch32Fp = true) (n z c v : Bit) (s : State) :
    applyEvent p (.a32Cmp n z c v) s = .next (s.setFpsr (s.fpsr.setNzcv (nzcvOf n z c v))) := by
  simp [applyEvent, Event.wellFormed, hp, a32CmpEvent]

/-- Without AArch32 floating-point there is no comparison event (R125; log entry 14). -/
theorem applyEvent_a32Cmp_of_no_aarch32 {p : Config.Params} (hp : p.haveAArch32Fp = false) (n z c v : Bit) (s : State) :
    applyEvent p (.a32Cmp n z c v) s = .refused (.noSuchEvent (.a32Cmp n z c v)) :=
  applyEvent_of_not_wellFormed (e := .a32Cmp n z c v) hp s

/-- An event reads of the context the FPCR enables alone (D14, R131; log entry 14). -/
theorem applyEvent_withCtx {p : Config.Params} {e : Event} {s u : State} (h : applyEvent p e s = .next u) {c : Ctx}
    (hc : ∀ x, FpExc.enable c x = FpExc.enable s.ctx x) :
    applyEvent p e { s with ctx := c } = .next { u with ctx := c } := by
  obtain ⟨hw, ⟨E, rfl, he, rfl⟩ | ⟨rfl, rfl⟩ | ⟨n, z, c', v, rfl, rfl⟩⟩ := applyEvent_next h
  · exact applyEvent_fpExc_of_clear hw ((ExcSet.anyEnabled_congr hc E).trans he)
  · exact applyEvent_sat p _
  · exact applyEvent_a32Cmp hw n z c' v _

/-! ### The flags of a comparison -/

/-- `NZCV_MASK` is the bits [31:28] (R36). -/
theorem getLsbD_nzcvMask (i : Nat) : nzcvMask.getLsbD i = decide (28 ≤ i ∧ i ≤ 31) := by
  have table : ∀ i : Fin 64, nzcvMask.getLsbD i.val = decide (28 ≤ i.val ∧ i.val ≤ 31) := by decide
  by_cases hi : i < 64
  · exact table ⟨i, hi⟩
  · rw [BitVec.getLsbD_of_ge _ i (Nat.le_of_not_lt hi)]
    exact (decide_eq_false (by omega)).symm

/-- In bits [31:28] a comparison stores its flags (R125). -/
theorem Fpsr.setNzcv_val_getLsbD_flag (nzcv : BitVec 4) (f : Fpsr) {i : Nat} (hi : 28 ≤ i ∧ i ≤ 31) :
    (f.setNzcv nzcv).val.getLsbD i = nzcv.getLsbD (i - 28) := by
  have h64 : i < 64 := by omega
  simp [Fpsr.setNzcv, getLsbD_nzcvMask, hi, h64, Nat.not_lt.2 hi.1]

/-- A comparison makes the bits [31:28] known and no other (R125). -/
theorem Fpsr.setNzcv_known_getLsbD (nzcv : BitVec 4) (f : Fpsr) (i : Nat) :
    (f.setNzcv nzcv).known.getLsbD i = (decide (28 ≤ i ∧ i ≤ 31) || f.known.getLsbD i) := by
  rw [Fpsr.setNzcv, BitVec.getLsbD_or, getLsbD_nzcvMask, Bool.or_comm]

/-- Where each flag stands in the value of the four: N highest, V lowest. -/
theorem nzcvOf_getLsbD (n z c v : Bit) :
    (nzcvOf n z c v).getLsbD 3 = n.getLsbD 0 ∧ (nzcvOf n z c v).getLsbD 2 = z.getLsbD 0 ∧
      (nzcvOf n z c v).getLsbD 1 = c.getLsbD 0 ∧ (nzcvOf n z c v).getLsbD 0 = v.getLsbD 0 := by
  revert n z c v
  decide

/-- What a comparison stores, bit by bit (R125). -/
theorem Fpsr.setNzcv_val_getLsbD (n z c v : Bit) (f : Fpsr) (i : Nat) :
    (f.setNzcv (nzcvOf n z c v)).val.getLsbD i =
      (if i = 31 then n.getLsbD 0 else if i = 30 then z.getLsbD 0 else if i = 29 then c.getLsbD 0
        else if i = 28 then v.getLsbD 0 else f.val.getLsbD i) := by
  by_cases hi : 28 ≤ i ∧ i ≤ 31
  · rw [Fpsr.setNzcv_val_getLsbD_flag _ f hi]
    obtain ⟨hn, hz, hc, hv⟩ := nzcvOf_getLsbD n z c v
    obtain ⟨hlo, hhi⟩ := hi
    interval_cases i
    · exact hv
    · exact hc
    · exact hz
    · exact hn
  · have outside : i ≠ 31 ∧ i ≠ 30 ∧ i ≠ 29 ∧ i ≠ 28 := by omega
    simp [(Fpsr.setNzcv_getLsbD_other (nzcvOf n z c v) f i hi).1, outside]

/-! ### The FPSCR view -/

/-- What `FPSCR_write_mapped(v)` stores: the value at the named fields, and every other bit as it was (R130). -/
theorem Fpsr.fpscrWrite_val_getLsbD (p : Config.Params) (v : Word) (f : Fpsr) (i : Nat) :
    (f.fpscrWrite p v).val.getLsbD i = if (fieldMask p).getLsbD i then v.getLsbD i else f.val.getLsbD i := by
  by_cases hi : i < 64
  · simp only [Fpsr.fpscrWrite, BitVec.getLsbD_or, BitVec.getLsbD_and, BitVec.getLsbD_not, hi, decide_true, Bool.true_and]
    cases (fieldMask p).getLsbD i <;> simp
  · simp [BitVec.getLsbD_of_ge _ i (Nat.le_of_not_lt hi)]

/-- `FPSCR_write_mapped(v)` makes the named fields known and leaves every other bit (R130). -/
theorem Fpsr.fpscrWrite_known_getLsbD (p : Config.Params) (v : Word) (f : Fpsr) (i : Nat) :
    (f.fpscrWrite p v).known.getLsbD i = (f.known.getLsbD i || (fieldMask p).getLsbD i) :=
  BitVec.getLsbD_or

/-! ### What an event keeps -/

/-- No event clears a bit outside the flags, nor makes it unknown (R127). -/
theorem applyEvent_keeps_set {p : Config.Params} {e : Event} {s u : State} (h : applyEvent p e s = .next u) {i : Nat}
    (hi : ¬ (28 ≤ i ∧ i ≤ 31)) :
    (s.fpsr.val.getLsbD i = true → u.fpsr.val.getLsbD i = true) ∧
      (s.fpsr.known.getLsbD i = true → u.fpsr.known.getLsbD i = true) := by
  obtain ⟨-, ⟨E, -, -, rfl⟩ | ⟨-, rfl⟩ | ⟨n, z, c, v, -, rfl⟩⟩ := applyEvent_next h
  · simp +contextual [Fpsr.setExceptions_val_getLsbD, Fpsr.setExceptions_known_getLsbD]
  · simp +contextual [Fpsr.setQc_getLsbD]
  · simp [Fpsr.setNzcv_getLsbD_other _ _ i hi]

/-- An event other than an AArch32 comparison leaves every bit above QC (R126). -/
theorem applyEvent_getLsbD_above_qc {p : Config.Params} {e : Event} {s u : State} (h : applyEvent p e s = .next u)
    (he : ∀ n z c v, e ≠ .a32Cmp n z c v) {i : Nat} (hi : 27 < i) :
    u.fpsr.val.getLsbD i = s.fpsr.val.getLsbD i ∧ u.fpsr.known.getLsbD i = s.fpsr.known.getLsbD i := by
  obtain ⟨-, ⟨E, -, -, rfl⟩ | ⟨-, rfl⟩ | ⟨n, z, c, v, rfl, -⟩⟩ := applyEvent_next h
  · have none_there : (FpExc.all.any fun e => E.has e && decide (i = e.bit)) = false := by
      simp [fun e : FpExc => (e.bit_lt.trans hi).ne']
    simp [Fpsr.setExceptions_val_getLsbD, Fpsr.setExceptions_known_getLsbD, none_there]
  · simp [Fpsr.setQc_getLsbD, hi.ne']
  · exact absurd rfl (he n z c v)

/-! ### What a step that does not replace FPSR does to it -/

/-- A step that does not replace FPSR leaves it, or is an update event (R127). -/
theorem step_fpsr_of_not_replacesFpsr {s u : State} (h : step s = .next u) (hq : ¬ replacesFpsr s) :
    u.fpsr = s.fpsr ∨ ∃ e, s.nextAction = .update e ∧ applyEvent Config.params e s.takeInput = .next u := by
  obtain ⟨ha, bs, i, rest, hf, hd, he⟩ | hupdate | ⟨n, z, c, v, -, rfl⟩ | ⟨ha, -⟩ := step_next h
  · cases i with
    | mrsFpsr t =>
      rw [exec_next_eq he, permittedEffect_mrsFpsr_fpsr, State.takeInput_fpsr]
      exact .inl rfl
    | msrFpsr t => exact absurd (.inr ⟨ha, bs, t, rest, hf, hd⟩) hq
  · exact .inr hupdate
  · exact .inl (by simp [a64CmpEffect])
  · exact absurd (.inl ha) hq

/-- A step that does not replace FPSR clears no bit outside the flags, nor makes it unknown (R127). -/
theorem step_keeps_set {s u : State} (h : step s = .next u) (hq : ¬ replacesFpsr s) {i : Nat}
    (hi : ¬ (28 ≤ i ∧ i ≤ 31)) :
    (s.fpsr.val.getLsbD i = true → u.fpsr.val.getLsbD i = true) ∧
      (s.fpsr.known.getLsbD i = true → u.fpsr.known.getLsbD i = true) := by
  obtain hsame | ⟨e, -, he⟩ := step_fpsr_of_not_replacesFpsr h hq
  · rw [hsame]
    exact ⟨id, id⟩
  · rw [← s.takeInput_fpsr]
    exact applyEvent_keeps_set he hi

/-- A run between two writes clears no bit outside the flags, nor makes it unknown (R127). -/
theorem QuietRun.keeps_set {s u : State} (h : QuietRun s u) {i : Nat} (hi : ¬ (28 ≤ i ∧ i ≤ 31)) :
    (s.fpsr.val.getLsbD i = true → u.fpsr.val.getLsbD i = true) ∧
      (s.fpsr.known.getLsbD i = true → u.fpsr.known.getLsbD i = true) := by
  induction h with
  | refl => exact ⟨id, id⟩
  | step _ hq hstep ih =>
    obtain ⟨hval, hknown⟩ := step_keeps_set hstep hq hi
    exact ⟨hval ∘ ih.1, hknown ∘ ih.2⟩

/-- The cumulative fields stand outside the flags (R21). -/
theorem NamedField.bit_not_flag {f : NamedField} (h : f.cumulative = true) : ¬ (28 ≤ f.bit ∧ f.bit ≤ 31) := by
  cases f <;> revert h <;> decide

/-! ### The statements -/

/-- Settles O35, by induction on the run: a cumulative field stands outside the flags, and there a step that does not replace
FPSR clears nothing. -/
theorem cumulativeBitsNeverClear : Obligations.CumulativeBitsNeverClear :=
  fun _ _ hrun _ hf => hrun.keeps_set (NamedField.bit_not_flag hf)

/-- Settles O28: the loop of R121 reaches the bits of the set. -/
theorem untrappedExceptionsSetTheirBits : Obligations.UntrappedExceptionsSetTheirBits := by
  intro p E s hE hclear
  refine ⟨_, applyEvent_fpExc_of_clear (Event.wellFormed_fpExc_iff.2 hE) (ExcSet.anyEnabled_of_clear hclear), rfl,
    fun i => ?_⟩
  simp only [State.setFpsr_fpsr, Fpsr.setExceptions_val_getLsbD, Fpsr.setExceptions_known_getLsbD, Bool.or_eq_true,
    ExcSet.any_bit_iff, and_self]

/-- Settles O29: the refusal as trapped is R122's condition, which fails of a context that is held without traps. -/
theorem enabledExceptionIsTrapped : Obligations.EnabledExceptionIsTrapped := by
  intro p E s
  refine ⟨applyEvent_fpExc_trapped_iff.2, fun hp => ?_, fun hp => Ctx.held_of_fpTraps hp s.ctx⟩
  have hclear : noFpTraps (s.ctx.held p) := Ctx.noFpTraps_held hp s.ctx
  refine ⟨hclear, fun h => ?_⟩
  obtain ⟨e, -, hen⟩ := applyEvent_fpExc_trapped_iff.1 h
  exact absurd ((hclear e).symm.trans hen) (by decide)

/-- Settles O31, bit by bit of the overwritten flags. -/
theorem aArch32CompareWritesFlags : Obligations.AArch32CompareWritesFlags := by
  intro p n z c v s
  refine ⟨fun hp => ⟨_, applyEvent_a32Cmp hp n z c v s, rfl, ?_, ?_⟩,
    fun hp => applyEvent_a32Cmp_of_no_aarch32 hp n z c v s⟩
  · exact Fpsr.setNzcv_val_getLsbD n z c v s.fpsr
  · exact Fpsr.setNzcv_known_getLsbD _ s.fpsr

/-- Settles O32: an event reads the FPCR enables of the context and writes FPSR. -/
theorem eventsChangeFpsrAlone : Obligations.EventsChangeFpsrAlone :=
  fun _ _ _ _ h => ⟨applyEvent_next_eq h, fun _ => applyEvent_withCtx h⟩

/-- Settles O34: a step that does not replace FPSR leaves it or is an event, and but for the comparison no event reaches
above QC. -/
theorem conditionFlagWriters : Obligations.ConditionFlagWriters := by
  intro s u h hq hcmp i hlo _
  obtain hsame | ⟨e, ha, he⟩ := step_fpsr_of_not_replacesFpsr h hq
  · simp [hsame]
  · rw [← s.takeInput_fpsr]
    refine applyEvent_getLsbD_above_qc he (fun n z c v hecmp => hcmp n z c v ?_) hlo
    rw [ha, hecmp]

/-- Settles O36: a field that is present stands in `FIELD_MASK`, and a RES0 bit does not. -/
theorem fpscrViewFunctions : Obligations.FpscrViewFunctions := by
  intro p f d v
  refine ⟨fun g hg => ?_, fun i hi => ?_⟩
  · have hfield : (fieldMask p).getLsbD g.bit = true := (getLsbD_fieldMask p g.bit).2 ⟨g, hg, rfl⟩
    exact ⟨Fpsr.fpscrRead_of_present hg f d, by simp [Fpsr.fpscrWrite_val_getLsbD, hfield],
      by simp [Fpsr.fpscrWrite_known_getLsbD, hfield]⟩
  · have hfield : (fieldMask p).getLsbD i = false := getLsbD_fieldMask_of_res0 hi
    simp [Fpsr.fpscrWrite_val_getLsbD, Fpsr.fpscrWrite_known_getLsbD, hfield]

/-- Settles O30: QC stands at bit 27, and no control is read. -/
theorem saturationSetsQc : Obligations.SaturationSetsQc := applyEvent_sat

end Sys2Proof.Machine
end

section
/-! Exceptions: the controls of the access check below EL3, in the order in which they deny, and what follows from it. -/

namespace Sys2Proof.Machine

/-! ### The control of each level -/

/-- CPACR_EL1.FPEN denies an access from EL0 or EL1 (R91 step 2, R92 step 2). -/
def el1Denies (c : Ctx) : Bool :=
  match c.el with
  | .el0 => !c.el1AArch32 && !(c.el2Enabled && c.e2h == 1#1 && c.tge == 1#1) && c.cpacrFpen != 0b11#2
  | .el1 => isX0 c.cpacrFpen
  | _ => false

/-- The outcome of a denial by CPACR_EL1.FPEN: at EL0 TGE routes it to EL2 (R91 step 2, R152 (a)). -/
def el1Denial (c : Ctx) : Access :=
  if c.el == .el0 && c.el2Enabled && !c.el2AArch32 && c.tge == 1#1 then .trap .el2 0x00 else .trap .el1 0x07

/-- A field of CPTR_EL2 denies an access from EL0, EL1 or EL2 (R91 steps 3 to 5, R92 steps 3 and 4, R93 steps 2 and 3). -/
def el2Denies (c : Ctx) : Bool :=
  match c.el with
  | .el0 =>
    (c.el2Enabled && !c.el2AArch32 && c.e2h == 1#1 && c.tge == 1#1 && c.cptrEl2Fpen != 0b11#2) ||
      (c.el2Enabled && !c.el2AArch32 && c.e2h == 1#1 && isX0 c.cptrEl2Fpen) ||
      (c.el2Enabled && !c.el2AArch32 && c.e2h != 1#1 && c.cptrEl2Tfp == 1#1)
  | .el1 =>
    (c.el2Enabled && !c.el2AArch32 && c.e2h != 1#1 && c.cptrEl2Tfp == 1#1) ||
      (c.el2Enabled && !c.el2AArch32 && c.e2h == 1#1 && isX0 c.cptrEl2Fpen)
  | .el2 => (c.e2h == 0#1 && c.cptrEl2Tfp == 1#1) || (c.e2h == 1#1 && isX0 c.cptrEl2Fpen)
  | .el3 => false

/-- Below EL3 the access check is `Pre`, then the controls of EL1, EL2 and EL3 in this order (R145). -/
theorem accessCheck_of_ne_el3 {c : Ctx} (h : c.el ≠ .el3) (p : Config.Params) :
    accessCheck p c =
      if preUndefined p c then .undefined
      else if el1Denies c then el1Denial c
      else if el2Denies c then .trap .el2 0x07
      else if el3Denies p c then el3Denial c
      else .allow := by
  cases hel : c.el with
  | el0 => simp [accessCheck_of_el0 hel, accessEl0, el1Denies, el1Denial, el2Denies, hel, ite_or, or_assoc]
  | el1 => simp [accessCheck_of_el1 hel, accessEl1, el1Denies, el1Denial, el2Denies, hel, ite_or]
  | el2 => simp [accessCheck_of_el2 hel, accessEl2, el1Denies, el2Denies, hel, ite_or]
  | el3 => exact absurd hel h

/-! ### A control made permissive denies nothing, and the other controls do not read it -/

@[simp] theorem el1Denies_permitEl1 (c : Ctx) : el1Denies c.permitEl1 = false := by
  cases h : c.el <;> simp [el1Denies, Ctx.permitEl1, isX0, h]

@[simp] theorem el1Denies_permitEl2 (c : Ctx) : el1Denies c.permitEl2 = el1Denies c := rfl

@[simp] theorem el2Denies_permitEl2 (c : Ctx) : el2Denies c.permitEl2 = false := by
  cases h : c.el <;> simp [el2Denies, Ctx.permitEl2, isX0, h]

@[simp] theorem el3Denies_permitEl3 (p : Config.Params) (c : Ctx) : el3Denies p c.permitEl3 = false := by
  simp [el3Denies, Ctx.permitEl3]

@[simp] theorem preUndefined_permitEl1 (p : Config.Params) (c : Ctx) :
    preUndefined p c.permitEl1 = preUndefined p c := rfl

@[simp] theorem preUndefined_permitEl2 (p : Config.Params) (c : Ctx) :
    preUndefined p c.permitEl2 = preUndefined p c := rfl

/-- `Pre` fails where EL3's control does not deny (R95). -/
theorem preUndefined_of_el3Denies_eq_false {p : Config.Params} {c : Ctx} (h : el3Denies p c = false) :
    preUndefined p c = false :=
  preUndefined_of_el3Lets (el3Denies_eq_false_iff.1 h)

@[simp] theorem preUndefined_permitEl3 (p : Config.Params) (c : Ctx) : preUndefined p c.permitEl3 = false :=
  preUndefined_of_el3Denies_eq_false (el3Denies_permitEl3 p c)

/-- With EL3's control permissive the access check below EL3 is the steps of EL1 and EL2 (R145). -/
theorem accessCheck_permitEl3 {c : Ctx} (h : c.el ≠ .el3) (p : Config.Params) :
    accessCheck p c.permitEl3 =
      if el1Denies c then el1Denial c else if el2Denies c then .trap .el2 0x07 else .allow := by
  rw [accessCheck_of_ne_el3 (c := c.permitEl3) h, preUndefined_permitEl3, el3Denies_permitEl3]
  rfl

/-! ### The outcomes of the denials -/

/-- A denial by EL1's control is a trap (R140). -/
theorem el1Denial_eq (c : Ctx) : el1Denial c = .trap .el2 0x00 ∨ el1Denial c = .trap .el1 0x07 :=
  ite_eq_or_eq _ _ _

/-- A denial by EL1's control has code 0x00 exactly where TGE routes it to EL2 (R143). -/
theorem el1Denial_eq_trap_zero_iff {c : Ctx} :
    el1Denial c = .trap .el2 0x00 ↔ c.el = .el0 ∧ c.el2Enabled = true ∧ c.el2AArch32 = false ∧ c.tge = 1#1 := by
  simp [el1Denial, and_assoc]

/-- Where TGE routes a denial to EL2, EL1's control denies at EL0 with E2H = 0 alone (R91 step 2, R152). -/
theorem el1Denies_iff_of_tge {c : Ctx} (hel : c.el = .el0) (hen : c.el2Enabled = true) (htge : c.tge = 1#1) :
    el1Denies c = true ↔ c.el1AArch32 = false ∧ c.e2h = 0#1 ∧ c.cpacrFpen ≠ 0b11#2 := by
  simp [el1Denies, hel, hen, htge, bit_ne_one_iff, and_assoc]

/-- In Debug state with SDD = 1 a denial by EL3's control is `Undefined` (R146). -/
theorem el3Denial_of_debug {c : Ctx} (hhalted : c.halted = true) (hsdd : c.sdd = 1#1) : el3Denial c = .undefined := by
  simp [el3Denial, hhalted, hsdd]

/-- Outside Debug state a denial by EL3's control is its trap (R154). -/
theorem el3Denial_of_normalExecution {c : Ctx} (h : normalExecution c) : el3Denial c = .trap .el3 0x07 := by
  simp [el3Denial, show c.halted = false from h]

/-- The arm of EL3 does not end in the trap with code 0x00 (R143). -/
theorem accessEl3_ne_trap_zero (c : Ctx) : accessEl3 c ≠ .trap .el2 0x00 := by
  unfold accessEl3
  split <;> simp

/-- A denial by EL3's control is not the trap with code 0x00 (R143). -/
theorem el3Denial_ne_trap_zero (c : Ctx) : el3Denial c ≠ .trap .el2 0x00 := by
  unfold el3Denial
  split <;> simp

/-- Outside Debug state `Pre` fails (R154). -/
theorem preUndefined_of_normalExecution {c : Ctx} (h : normalExecution c) (p : Config.Params) :
    preUndefined p c = false := by
  simp [preUndefined, show c.halted = false from h]

/-- With EL2 not enabled or using AArch32 no field of CPTR_EL2 denies at EL0 or EL1 (R152). -/
theorem el2Denies_of_el2_off {c : Ctx} (hel : c.el = .el0 ∨ c.el = .el1)
    (hoff : c.el2Enabled = false ∨ c.el2AArch32 = true) : el2Denies c = false := by
  obtain hel | hel := hel <;> obtain hoff | hoff := hoff <;> simp [el2Denies, hel, hoff]

/-- With EL3 not implemented or using AArch32 its control does not deny below EL3 (R152). -/
theorem el3Denies_of_el3_off {p : Config.Params} {c : Ctx} (hoff : p.haveEl3 = false ∨ c.el3AArch32 = true) :
    el3Denies p c = false := by
  obtain hoff | hoff := hoff <;> simp [el3Denies, hoff]

/-! ### The statements -/

/-- Settles O9, the equivalence that is proved level by level. -/
theorem accessAllowedExactlyWhenGranted : Obligations.AccessAllowedExactlyWhenGranted :=
  fun _ _ => accessCheck_eq_allow_iff

/-- Below EL3 the trap with code 0x00 is the denial by EL1's control that TGE routes to EL2 (R143). -/
theorem accessCheck_eq_trap_zero_iff {p : Config.Params} {c : Ctx} (h : c.el ≠ .el3) :
    accessCheck p c = .trap .el2 0x00 ↔
      preUndefined p c = false ∧ el1Denies c = true ∧ el1Denial c = .trap .el2 0x00 := by
  rw [accessCheck_of_ne_el3 h]
  split_ifs with hpre h1 h2 h3
  · simp [hpre]
  · simp [hpre, h1]
  · simp [h1]
  · simp [h1, el3Denial_ne_trap_zero]
  · simp [h1]

/-- Settles O12: only EL1's control denies with that code, and at EL0 it denies with TGE set where E2H is 0. -/
theorem codeZeroTrapExactlyUnderTge : Obligations.CodeZeroTrapExactlyUnderTge := by
  intro p c
  by_cases h3 : c.el = .el3
  · simp [accessCheck_of_el3 h3, h3, accessEl3_ne_trap_zero]
  · rw [accessCheck_eq_trap_zero_iff h3, el1Denial_eq_trap_zero_iff]
    constructor
    · rintro ⟨hpre, hdenies, h0, hen, hwidth, htge⟩
      obtain ⟨hwidth1, he2h, hcpacr⟩ := (el1Denies_iff_of_tge h0 hen htge).1 hdenies
      exact ⟨h0, hpre, hwidth1, hcpacr, hen, hwidth, htge, he2h⟩
    · rintro ⟨h0, hpre, hwidth1, hcpacr, hen, hwidth, htge, he2h⟩
      exact ⟨hpre, (el1Denies_iff_of_tge h0 hen htge).2 ⟨hwidth1, he2h, hcpacr⟩, h0, hen, hwidth, htge⟩

/-- Where `Pre` fails for both values of the parameter, the outcome does not read it (R146). -/
theorem accessCheck_param_of_not_pre {p : Config.Params} {c : Ctx} (h : c.el ≠ .el3)
    (hpre : ∀ b : Bool, preUndefined { p with el3TrapPriorityWhenSdd := b } c = false) (b : Bool) :
    accessCheck { p with el3TrapPriorityWhenSdd := b } c = accessCheck p c := by
  rw [accessCheck_of_ne_el3 h, accessCheck_of_ne_el3 h, hpre b, hpre p.el3TrapPriorityWhenSdd]
  rfl

/-- In Debug state with SDD = 1 and without the priority a denial by EL3's control is `Undefined`, after those of EL1 and
EL2 (R146). -/
theorem accessCheck_of_debug_without_priority {p : Config.Params} {c : Ctx} (h : c.el ≠ .el3)
    (hpre : preUndefined p c = false) (hdenies : el3Denies p c = true) (hdenial : el3Denial c = .undefined) :
    accessCheck p c =
      if el1Denies c then el1Denial c else if el2Denies c then .trap .el2 0x07 else .undefined := by
  rw [accessCheck_of_ne_el3 h, hpre, hdenies, hdenial]
  rfl

/-- Settles O13: with the priority it is `Pre` that decides, without it the controls in order; elsewhere `Pre` fails or is
not tested. -/
theorem debugPriorityParameter : Obligations.DebugPriorityParameter := by
  intro p c
  refine ⟨fun ⟨hel, hhalted, hsdd, hhave, hwidth, htfp⟩ => ⟨fun hprio => ?_, fun hprio => ?_, fun htrap => ?_⟩,
    fun hother b => ?_⟩
  · exact accessCheck_of_preUndefined hel (preUndefined_iff.2 ⟨hhalted, hhave, hsdd, hprio, hwidth, htfp⟩)
  · have hpre : preUndefined p c = false := by simp [preUndefined, hprio]
    rw [accessCheck_permitEl3 hel, accessCheck_of_debug_without_priority hel hpre
      (el3Denies_iff.2 ⟨hhave, hwidth, htfp⟩) (el3Denial_of_debug hhalted hsdd)]
    cases el1Denies c with
    | true => obtain hd | hd := el1Denial_eq c <;> simp [hd]
    | false => cases el2Denies c <;> simp
  · have hcause := outcomesAndWhereTheyArise p c
    rw [htrap] at hcause
    obtain ⟨-, -, hbelow⟩ := hcause
    exact (hbelow hel).2.2 ⟨hhalted, hsdd⟩
  · by_cases h3 : c.el = .el3
    · rw [accessCheck_of_el3 h3, accessCheck_of_el3 h3]
    · refine accessCheck_param_of_not_pre h3 (fun b => Bool.eq_false_iff.2 fun hpre => hother ?_) b
      obtain ⟨hhalted, hhave, hsdd, -, hwidth, htfp⟩ := preUndefined_iff.1 hpre
      exact ⟨h3, hhalted, hsdd, hhave, hwidth, htfp⟩

/-- `Undefined` is answered in Debug state alone, and only where EL3's control denies (R144, R154). -/
theorem accessCheck_eq_undefined {p : Config.Params} {c : Ctx} (h : accessCheck p c = .undefined) :
    c.halted = true ∧ el3Denies p c = true := by
  have hcause := outcomesAndWhereTheyArise p c
  rw [h] at hcause
  obtain ⟨-, hhalted, -, hhave, hwidth, htfp⟩ := hcause
  exact ⟨hhalted, el3Denies_iff.2 ⟨hhave, hwidth, htfp⟩⟩

/-- Settles O14: outside Debug state `Pre` fails and a denial by EL3's control is its trap. -/
theorem noDebugEffectOutsideDebugState : Obligations.NoDebugEffectOutsideDebugState := by
  intro p c h
  refine ⟨preUndefined_of_normalExecution h p, fun hundef => ?_, fun b d => ?_⟩
  · exact Bool.false_ne_true (h.symm.trans (accessCheck_eq_undefined hundef).1)
  · have h' : normalExecution { c with sdd := d } := h
    by_cases h3 : c.el = .el3
    · rw [accessCheck_of_el3 h3, accessCheck_of_el3 (c := { c with sdd := d }) h3]
      rfl
    · rw [accessCheck_of_ne_el3 h3, accessCheck_of_ne_el3 (c := { c with sdd := d }) h3,
        preUndefined_of_normalExecution h, preUndefined_of_normalExecution h', el3Denial_of_normalExecution h,
        el3Denial_of_normalExecution h']
      rfl

/-- With the other two controls permissive the access check is CPACR_EL1's step alone (R145). -/
theorem accessCheck_permitEl2_permitEl3 {c : Ctx} (h : c.el ≠ .el3) (p : Config.Params) :
    accessCheck p c.permitEl2.permitEl3 = if el1Denies c then el1Denial c else .allow := by
  rw [accessCheck_permitEl3 (c := c.permitEl2) h, el2Denies_permitEl2]
  rfl

/-- With the other two controls permissive the access check is CPTR_EL2's step alone (R145). -/
theorem accessCheck_permitEl1_permitEl3 {c : Ctx} (h : c.el ≠ .el3) (p : Config.Params) :
    accessCheck p c.permitEl1.permitEl3 = if el2Denies c then .trap .el2 0x07 else .allow := by
  rw [accessCheck_permitEl3 (c := c.permitEl1) h, el1Denies_permitEl1]
  rfl

/-- With the other two controls permissive and without `Pre` the access check is CPTR_EL3's step alone (R145). -/
theorem accessCheck_permitEl1_permitEl2 {p : Config.Params} {c : Ctx} (h : c.el ≠ .el3)
    (hpre : preUndefined p c = false) :
    accessCheck p c.permitEl1.permitEl2 = if el3Denies p c then el3Denial c else .allow := by
  rw [accessCheck_of_ne_el3 (c := c.permitEl1.permitEl2) h, preUndefined_permitEl2, preUndefined_permitEl1, hpre,
    el1Denies_permitEl2, el1Denies_permitEl1, el2Denies_permitEl2]
  rfl

/-- Settles O15: each control alone is one step of the list, and the first step that denies decides. -/
theorem lowestLevelControlDecides : Obligations.LowestLevelControlDecides := by
  intro p c h hpre
  rw [accessCheck_permitEl2_permitEl3 h, accessCheck_permitEl1_permitEl3 h, accessCheck_permitEl1_permitEl2 h hpre,
    accessCheck_of_ne_el3 h, hpre]
  cases el1Denies c with
  | true => obtain hd | hd := el1Denial_eq c <;> simp [hd]
  | false => cases el2Denies c <;> simp

/-- Where no field of CPTR_EL2 denies, its fields have no influence below EL3. -/
theorem accessCheck_permitEl2_of_el2Denies_eq_false {p : Config.Params} {c : Ctx} (h : c.el ≠ .el3)
    (hdenies : el2Denies c = false) : accessCheck p c.permitEl2 = accessCheck p c := by
  rw [accessCheck_of_ne_el3 h, accessCheck_of_ne_el3 (c := c.permitEl2) h, el2Denies_permitEl2, hdenies]
  rfl

/-- Where EL3's control does not deny, it has no influence below EL3. -/
theorem accessCheck_permitEl3_of_el3Denies_eq_false {p : Config.Params} {c : Ctx} (h : c.el ≠ .el3)
    (hdenies : el3Denies p c = false) : accessCheck p c.permitEl3 = accessCheck p c := by
  rw [accessCheck_permitEl3 h, accessCheck_of_ne_el3 h, preUndefined_of_el3Denies_eq_false hdenies, hdenies]
  rfl

/-- A trap to EL2 from EL0 or EL1 is taken only with EL2 enabled and using AArch64 (R152). -/
theorem el2_on_of_trap_el2 {p : Config.Params} {c : Ctx} {ec : Nat} (hel : c.el = .el0 ∨ c.el = .el1)
    (h : accessCheck p c = .trap .el2 ec) : c.el2Enabled = true ∧ c.el2AArch32 = false := by
  have hcause := outcomesAndWhereTheyArise p c
  rw [h] at hcause
  obtain ⟨-, -, -, hen, hwidth, -⟩ | ⟨-, -, hbelow, -⟩ := hcause
  · exact ⟨hen, hwidth⟩
  · exact hbelow (by obtain hel | hel := hel <;> simp [hel])

/-- A trap to EL3 from below is a denial by EL3's control (R140). -/
theorem el3Denies_of_trap_el3 {p : Config.Params} {c : Ctx} {ec : Nat} (hel : c.el ≠ .el3)
    (h : accessCheck p c = .trap .el3 ec) : el3Denies p c = true := by
  have hcause := outcomesAndWhereTheyArise p c
  rw [h] at hcause
  obtain ⟨-, htfp, hbelow⟩ := hcause
  obtain ⟨hhave, hwidth, -⟩ := hbelow hel
  exact el3Denies_iff.2 ⟨hhave, hwidth, htfp⟩

/-- Settles O16: a level that is off denies nothing, and each outcome that names it asks for a level that is on. -/
theorem disabledLevelsDoNotTrap : Obligations.DisabledLevelsDoNotTrap := by
  intro p c
  refine ⟨fun hel hoff => ⟨?_, fun ec htrap => ?_⟩, fun hel hoff => ?_⟩
  · have hbelow : c.el ≠ .el3 := by obtain hel | hel := hel <;> simp [hel]
    exact (accessCheck_permitEl2_of_el2Denies_eq_false hbelow (el2Denies_of_el2_off hel hoff)).symm
  · obtain ⟨hen, hwidth⟩ := el2_on_of_trap_el2 hel htrap
    simp [hen, hwidth] at hoff
  · have hdenies : el3Denies p c = false := el3Denies_of_el3_off hoff
    exact ⟨(accessCheck_permitEl3_of_el3Denies_eq_false hel hdenies).symm,
      fun h => Bool.false_ne_true (hdenies.symm.trans (accessCheck_eq_undefined h).2),
      fun ec h => Bool.false_ne_true (hdenies.symm.trans (el3Denies_of_trap_el3 hel h))⟩

/-! ### How the two instructions stop -/

/-- A trap that the access check answers is one of the four of R140's list. -/
theorem trap_mem_of_accessCheck_eq {p : Config.Params} {c : Ctx} {target : EL} {ec : Nat}
    (h : accessCheck p c = .trap target ec) :
    Fault.trap target ec ∈ [Fault.trap .el1 0x07, .trap .el2 0x07, .trap .el2 0x00, .trap .el3 0x07, .undefined] := by
  have hcause := outcomesAndWhereTheyArise p c
  rw [h] at hcause
  cases target with
  | el0 => exact hcause.elim
  | el1 => simp [hcause.1]
  | el2 => obtain ⟨hec, -⟩ | ⟨hec, -⟩ := hcause <;> simp [hec]
  | el3 => simp [hcause.1]

/-- Settles O22: by `deniedAccessStops` the answer of the access check to the context decides the outcome of either instruction. -/
theorem bothInstructionsStopAlike : Obligations.BothInstructionsStopAlike := by
  intro i j s s' hctx
  have hi := deniedAccessStops i s
  have hj := deniedAccessStops j s'
  rw [← hctx] at hj
  cases ha : accessCheck Config.params s.ctx with
  | allow =>
    simp only [ha] at hi hj
    obtain ⟨u, hu⟩ := hi
    simp [hu, hj]
  | trap target ec =>
    simp only [ha] at hi hj
    have hmem := trap_mem_of_accessCheck_eq ha
    simpa [hi, hj] using hmem
  | undefined =>
    simp only [ha] at hi hj
    simp [hi, hj]

end Sys2Proof.Machine
end

section
/-! Reset: what reset and a reset step leave, and what FPSR reads as while none of its bits is known. -/

namespace Sys2Proof.Machine

/-! ### Reads of an unknown FPSR -/

/-- With no bit known a read observes the draw alone (R98, R163). -/
theorem Fpsr.observe_of_known_eq_zero {f : Fpsr} (h : f.known = 0#64) (p : Config.Params) (d : Word) :
    f.observe p d = d &&& implMask p := by
  rw [Fpsr.observe, h, BitVec.and_zero, BitVec.zero_or, BitVec.not_zero, BitVec.and_allOnes]

/-- With no bit known a permitted read leaves the next draw in an ordinary register (R98, R163). -/
theorem permittedEffect_mrsFpsr_readX_of_unknown {t : Fin 32} (ht : t ≠ 31) {s : State} (h : s.fpsr.known = 0#64) :
    (permittedEffect (.mrsFpsr t) s).readX t = Config.draw s.draws &&& implMask Config.params := by
  rw [permittedEffect_mrsFpsr_readX ht, State.readFpsr, Fpsr.observe_of_known_eq_zero h, State.freshDraw]

/-- Settles O40: the first read leaves FPSR unknown and the access granted, and takes the draw that it gives. -/
theorem unknownBitsReadAsDraws : Obligations.UnknownBitsReadAsDraws := by
  intro a b s hunknown hgranted ha hb
  have hgranted' : accessGranted Config.params (permittedEffect (.mrsFpsr a) s).ctx := by simpa using hgranted
  have hunknown' : (permittedEffect (.mrsFpsr a) s).fpsr.known = 0#64 := by simpa using hunknown
  refine ⟨_, _, exec_of_granted hgranted _, exec_of_granted hgranted' _,
    permittedEffect_mrsFpsr_readX_of_unknown ha hunknown, ?_, by simp⟩
  rw [permittedEffect_mrsFpsr_readX_of_unknown hb hunknown', permittedEffect_mrsFpsr_draws]

/-! ### Reset and the reset step -/

/-- A step that is a reset (R162). -/
theorem step_of_reset {s : State} (h : s.nextAction = .reset) : step s = .next s.takeInput.resetEvent := by
  simp [step, h]

/-- A step takes the first input, where there is one, and leaves the others (R40; log entry 6). -/
@[simp] theorem State.takeInput_inputs (s : State) : s.takeInput.inputs = s.inputs.tail := by
  cases hs : s.inputs with
  | nil => rw [State.takeInput_of_nil hs, hs, List.tail_nil]
  | cons i rest => rw [State.takeInput_of_cons hs, List.tail_cons]

/-- After reset every register reads as 0 (log entry 3). -/
@[simp] theorem State.readX_reset (t : Fin 32) : State.reset.readX t = 0#64 := by
  simp [State.readX, State.reset]

/-- Right after reset every floating-point trap is disabled (log entry 5). -/
theorem noFpTraps_atReset : noFpTraps Ctx.atReset := by
  intro e
  cases e <;> rfl

/-- Settles O38: the reset state and the reset event both give FPSR with no bit known. -/
theorem resetLeavesFpsrUnknown : Obligations.ResetLeavesFpsrUnknown :=
  ⟨⟨rfl, rfl⟩, fun _ h => ⟨_, step_of_reset h, rfl, rfl⟩⟩

/-- Settles O39, one field after the other of the reset event after the input is taken. -/
theorem resetEventChoices : Obligations.ResetEventChoices := by
  intro s h
  refine ⟨_, step_of_reset h, fun t => ?_, rfl, rfl, by simp⟩
  rw [State.readX_congr (State.resetEvent_x _), State.readX_reset]

/-- Settles O49: the text is empty, FPSR holds 0, RESET_PC is a multiple of 4, and the enables are 0. -/
theorem resetMeetsInvariant : Obligations.ResetMeetsInvariant where
  text := wf_reset
  stored := BitVec.zero_and
  aligned := rfl
  enables := fun _ => noFpTraps_atReset

end Sys2Proof.Machine
end
